-- ==== Sys2Proof/Word.lean ====
section
/-! DEFINITION. The words of the Iztepa 2416: bytes, samples, numbers of ports, links, slots, destinations and
rows (spec 00, section 4), and the fixed-size tables (`Tab`) in which the part keeps one item per instance. -/

namespace Sys2Proof

/-- A byte of a frame or message (00 section 4.1; bit 0 is the least significant). -/
abbrev Byte := BitVec 8
/-- A 24-bit two's complement sample (00 section 4.2). -/
abbrev Sample := BitVec 24
/-- A frame number, 32 bits, compared modulo 2^32 (00 section 4.3). -/
abbrev FrameNo := BitVec 32
/-- A session number, 0 to 255 (R83). -/
abbrev SessionNo := BitVec 8
/-- A 16-bit counter (00 section 4.5, R191). -/
abbrev Counter := BitVec 16
/-- A timing grade 0 (best) to 7 (00 section 5). -/
abbrev Grade := BitVec 3
/-- A control port CP0 to CP3. -/
abbrev Port := Fin 4
/-- A link 0 to 15. -/
abbrev Link := Fin 16
/-- A slot 0 to 15 of a link frame. -/
abbrev Slot := Fin 16
/-- A destination index 0 to 255 (00 section 4.2). -/
abbrev Dest := Fin 256
/-- A candidate row; the row the spec numbers r (1 to 8) is r - 1 here. -/
abbrev RowIx := Fin 8
/-- A moment on, or a length of, the internal time base, in 1/1600 crystal periods (log 3). -/
abbrev Time := Nat

/-- A table of exactly `n` items, one per instance of a block or per destination. -/
structure Tab (n : Nat) (α : Type) where
  cells : List α
  size  : cells.length = n
  deriving DecidableEq, Repr

namespace Tab

variable {n : Nat} {α β : Type}

/-- Item `i`. -/
def get (t : Tab n α) (i : Fin n) : α := t.cells[i.val]'(by rw [t.size]; exact i.isLt)

/-- The table with item `i` replaced. -/
def put (t : Tab n α) (i : Fin n) (x : α) : Tab n α := ⟨t.cells.set i.val x, by simp [t.size]⟩

/-- The table whose item `i` is `f i`. -/
def tabulate (f : Fin n → α) : Tab n α := ⟨(List.finRange n).map f, by simp⟩

/-- The table holding `x` everywhere. -/
def fill (x : α) : Tab n α := ⟨List.replicate n x, by simp⟩

/-- `f` on every item. -/
def map (f : α → β) (t : Tab n α) : Tab n β := ⟨t.cells.map f, by simp [t.size]⟩

/-- `f` on item `i` alone. -/
def modify (t : Tab n α) (i : Fin n) (f : α → α) : Tab n α := t.put i (f (t.get i))

@[simp] theorem get_tabulate (f : Fin n → α) (i : Fin n) : (tabulate f).get i = f i := by
  simp [get, tabulate]

@[simp] theorem get_fill (x : α) (i : Fin n) : (fill x : Tab n α).get i = x := by
  simp [get, fill]

@[simp] theorem get_map (f : α → β) (t : Tab n α) (i : Fin n) : (t.map f).get i = f (t.get i) := by
  simp [get, map]

@[simp] theorem get_put (t : Tab n α) (i j : Fin n) (x : α) :
    (t.put i x).get j = if j = i then x else t.get j := by
  simp only [get, put, List.getElem_set, Fin.ext_iff, eq_comm]

@[simp] theorem get_modify (t : Tab n α) (i j : Fin n) (f : α → α) :
    (t.modify i f).get j = if j = i then f (t.get i) else t.get j := by
  simp [modify]

/-- Two tables with the same items are the same table. -/
theorem ext_get {t u : Tab n α} (h : ∀ i, t.get i = u.get i) : t = u := by
  obtain ⟨a, ha⟩ := t
  obtain ⟨b, hb⟩ := u
  simp only [Tab.mk.injEq]
  refine List.ext_getElem (by omega) fun i h1 _ => ?_
  exact h ⟨i, by omega⟩

end Tab

end Sys2Proof
end

