-- ==== Sys2Proof/Config.lean ====
section
/-! DEFINITION. What is fixed for the part: the lengths of R35, R36, R40 and the capacities of the collections,
and the two free values. Time is counted in 1/1600 crystal periods (log 3): the smallest unit in which the
nominal frame, its limits of R35 and 1/32,768 of it are whole numbers. -/

namespace Sys2Proof.Config

/-- The nominal frame period, 512 crystal periods (R35). -/
def nominalPeriod : Time := 819200
/-- 0.995 times the nominal period (R35). -/
def minInterval : Time := 815104
/-- 1.005 times the nominal period (R35). -/
def maxInterval : Time := 823296
/-- One millisecond of the internal time base: 24,576 crystal periods (00 section 7). -/
def millisecond : Time := 39321600
/-- One second. -/
def second : Time := 1000 * millisecond
/-- The qualification and loss-of-signal period, 0.25 ms (R4). -/
def quarterMillisecond : Time := 9830400

/-- Frames of one damage window (R10). -/
def damageWindow : Nat := 4800
/-- Damaged frames that set DEGRADED (R11). -/
def degradedSet : Nat := 16
/-- A complete window with fewer damaged frames clears DEGRADED (R11). -/
def degradedClear : Nat := 2
/-- Frames for which SLIP is silenced (R18). -/
def slipWindow : Nat := 4800
/-- Frames an elastic store holds at most (R14). -/
def storeDepth : Nat := 4
/-- Boundaries after which a capture has failed (R48). -/
def captureLimit : Nat := 200
/-- Good intervals that make the word-clock monitor PRESENT (R40). -/
def wclkGoodRun : Nat := 32
/-- Bad intervals that make it ABSENT (R40). -/
def wclkBadRun : Nat := 4
/-- Records of a staging set at most (R103). -/
def stagingMax : Nat := 32
/-- Sets of one port in the commit queue at most (R111, R115). -/
def commitsPerPort : Nat := 2
/-- Frames ahead a due frame may lie at most (R112). -/
def dueMax : Nat := 480000
/-- Records of a mailbox at most (R140). -/
def mailboxMax : Nat := 16
/-- Messages of a transmit queue at most (R144). -/
def txQueueMax : Nat := 8
/-- Wire bytes of a message at most (R129). -/
def wireMax : Nat := 35
/-- Responses of a response queue at most (R171). -/
def responseMax : Nat := 4
/-- Event records after which EVENTS_LOST is made (R180). -/
def eventRoom : Nat := 31
/-- Inbound bytes of a transaction that are kept (R154). -/
def inboundKept : Nat := 65
/-- Parameter bytes of a command frame at most (R155). -/
def paramMax : Nat := 60

/-- FREE VALUE (log 12): the phase error, in time units, that a boundary of the given frame finds for the given
row when the row's source has had no reference event since device reset. R35 measures the error from "the most
recent reference event" and states nothing where there is none. -/
opaque unmeasuredPhase : RowIx → FrameNo → Int

/-- FREE VALUE (log 34): bit k on SDO of a port, at a moment, when it comes after the last whole byte of its
transaction: such bits "carry no defined value on output" (R153). -/
opaque looseBit : Port → Time → Nat → Bool

end Sys2Proof.Config
end

