-- ==== Sys2Proof/Syntax.lean ====
section
/-! DEFINITION. The commands of the part: one constructor of `Instr` per row of spec/opcode_table.json, with the
operands its rules name (log 4). The part is a block: a command is a controller's command, an event on a pin or a
line, a timer's end, or one block's taking of what another handed it. -/

namespace Sys2Proof

/-- The two strap pins of one port (00 section 7, R82). -/
structure Strap where
  prec1 : Bool
  prec0 : Bool
  deriving DecidableEq, Repr

/-- The bytes of a link frame, byte 0 first (R1). -/
abbrev LinkFrame := Tab 54 Byte

/-- A place in the recovered bit stream at which a frame can begin, modulo the 432 bits of a frame (R5, log 20). -/
abbrev BitPos := Fin 432

/-- The blocks that raise events (R9, R18, R52, R58, R91, R95, R117, R122, R123, R141, R147, R148). -/
inductive EventSource where
  | sessionUnit
  | changeManager
  | receiver (n : Link)
  | store (n : Link)
  | selector
  | messageUnit
  deriving DecidableEq, Repr

/-- The blocks a soft reset reaches after the Session and Claim Unit, each in its own step (R100, R152). -/
inductive ResetBlock where
  | receiver (n : Link)     -- the receiver and its store (R22)
  | transmitter (n : Link)  -- R33
  | selector                -- R61
  | map                     -- R78
  | changeManager           -- R128
  | messageUnit             -- R151
  | eventUnit               -- R187
  | port (p : Port)         -- R175
  deriving DecidableEq, Repr

/-- How far a SOFT_RESET reaches in the step that takes it (log 6): through every block, or through the Session
and Claim Unit alone, so that other events may fall before it reaches the rest (R100, R174). -/
inductive ResetSpan where
  | whole
  | begun
  deriving DecidableEq, Repr

/-- The SOFT_RESET row: the command itself, or the soft reset in progress reaching one further block. -/
inductive SoftResetStep where
  | command (port : Port) (tag : Byte) (params : List Byte) (span : ResetSpan)
  | reach (block : ResetBlock)
  deriving DecidableEq, Repr

/-- The commands of the part. `elapsed` is the time since the event before it (log 3); a controller's command is
a good command frame on `port` with that tag and those parameter bytes (R155), whose transaction's delivery has
been settled (log 4). -/
inductive Instr where
  -- reset and frame timing
  | deviceReset (straps : Tab 4 Strap)
  | outputFrameBoundary
  | wclkOutFall
  -- receive lines
  | qualificationStart (link : Link) (elapsed : Time)
  | qualificationAbandoned (link : Link) (elapsed : Time)
  | qualificationComplete (link : Link)
  | lossOfSignal (link : Link) (elapsed : Time)
  | alignmentPatternFound (link : Link) (pos : BitPos) (elapsed : Time)
  | confirmFrameArrival (link : Link) (pos : BitPos) (frame : LinkFrame) (elapsed : Time)
  | frameArrival (link : Link) (pos : BitPos) (frame : LinkFrame) (elapsed : Time)
  -- word clock and timers
  | wclkRisingEdge (elapsed : Time)
  | wclkMissingInterval
  | restoreTimerExpiry (row : RowIx)
  | holdoverTimerExpiry
  | leaseExpiry (port : Port)
  -- what one block takes from another
  | chmSessionEndNotice (port : Port)
  | rslSessionEndNotice (port : Port)
  | msuSessionEndNotice (port : Port)
  | evuSessionEndNotice (port : Port)
  | completionNotice (link : Link)
  | discardNotice (link : Link)
  | disableNotice (link : Link)
  | raisedEventQueuing (source : EventSource)
  -- control ports
  | chipSelectFall (port : Port) (elapsed : Time)
  | chipSelectRise (port : Port) (sdi : List Bool) (span : ResetSpan) (elapsed : Time)
  | heldFrameTaken (port : Port)
  -- sessions and claims
  | openSession (port : Port) (tag : Byte) (params : List Byte)
  | ping (port : Port) (tag : Byte) (params : List Byte)
  | close (port : Port) (tag : Byte) (params : List Byte)
  | claim (port : Port) (tag : Byte) (params : List Byte)
  | release (port : Port) (tag : Byte) (params : List Byte)
  | queryOwner (port : Port) (tag : Byte) (params : List Byte)
  | softReset (stage : SoftResetStep)
  -- links
  | linkConfig (port : Port) (tag : Byte) (params : List Byte)
  | linkStatus (port : Port) (tag : Byte) (params : List Byte)
  | readFrame (port : Port) (tag : Byte) (params : List Byte)
  -- reference
  | refTable (port : Port) (tag : Byte) (params : List Byte)
  | refLockout (port : Port) (tag : Byte) (params : List Byte)
  | refMode (port : Port) (tag : Byte) (params : List Byte)
  | refForce (port : Port) (tag : Byte) (params : List Byte)
  | refManual (port : Port) (tag : Byte) (params : List Byte)
  | refClear (port : Port) (tag : Byte) (params : List Byte)
  | refStatus (port : Port) (tag : Byte) (params : List Byte)
  | wclkOut (port : Port) (tag : Byte) (params : List Byte)
  -- map, staging and commits
  | readMap (port : Port) (tag : Byte) (params : List Byte)
  | stage (port : Port) (tag : Byte) (params : List Byte)
  | unstage (port : Port) (tag : Byte) (params : List Byte)
  | discard (port : Port) (tag : Byte) (params : List Byte)
  | stagingRead (port : Port) (tag : Byte) (params : List Byte)
  | commit (port : Port) (tag : Byte) (params : List Byte)
  | cancel (port : Port) (tag : Byte) (params : List Byte)
  | commitList (port : Port) (tag : Byte) (params : List Byte)
  -- messages
  | subscribe (port : Port) (tag : Byte) (params : List Byte)
  | unsubscribe (port : Port) (tag : Byte) (params : List Byte)
  | fetch (port : Port) (tag : Byte) (params : List Byte)
  | send (port : Port) (tag : Byte) (params : List Byte)
  -- events and counters
  | setEventMask (port : Port) (tag : Byte) (params : List Byte)
  | countersRead (port : Port) (tag : Byte) (params : List Byte)
  | countersClear (port : Port) (tag : Byte) (params : List Byte)
  deriving DecidableEq, Repr

end Sys2Proof
end

