-- ==== Sys2Proof/Decode.lean ====
section
/-! DEFINITION. The decoder of the opcode table's words. No row of spec/opcode_table.json gives bits (every row's
"fields" is empty and none has "fixed"), so no word spells a command. The formats that do carry bits, the link
frame of R1 and the command frame of R155, are read in Machine/Receivers.lean and Machine/Ports.lean. -/

namespace Sys2Proof

/-- The command a table word spells: none, for no row gives bits. -/
def decodeTableWord (_nbits _w : Nat) : Option Instr := none

end Sys2Proof
end

