-- ==== Sys2Proof/Machine/State.lean ====
section
/-! DEFINITION. Everything the spec gives the part, as plain data: the state of each block (chapters 1 to 9), what
is on its way from one block to another, and the queue of commands waiting. -/

namespace Sys2Proof.Machine

/-! ### Link receivers (R3 to R13, R21) -/

/-- The five states of a receiver (section 1.2). -/
inductive RxState where
  | disabled
  | noSignal
  | search
  | confirm
  | inFrame
  deriving DecidableEq, Repr

/-- The sixteen samples of a frame, in slot order. -/
abbrev Samples := Tab 16 Sample

/-- The last good frame of a receiver (R8). -/
structure GoodFrame where
  slots    : Samples
  grade    : Grade
  sideCode : BitVec 3
  sideA    : Byte
  sideB    : Byte
  arrival  : FrameNo
  deriving DecidableEq, Repr

/-- The reference events of one source: the most recent one, and the time between the two most recent (R35). -/
structure RefClock where
  last     : Option Time
  interval : Option Time
  deriving DecidableEq, Repr

/-- The counters a receiver keeps (R21). -/
structure RxCounters where
  damaged      : Counter
  misaligned   : Counter
  lossOfFrame  : Counter
  lossOfSignal : Counter
  badSideCode  : Counter
  deriving DecidableEq, Repr

/-- Receiver RXn. `qualifying` is the start of a running qualification period (R4); `position` the candidate or
held frame position (R5, R7). -/
structure Receiver where
  state        : RxState
  qualifying   : Option Time
  position     : Option BitPos
  confirmCount : Nat
  missCount    : Nat
  lastGood     : Option GoodFrame
  windowFrames : Nat
  windowDamage : Nat
  degraded     : Bool
  grade        : Grade
  clock        : RefClock
  counters     : RxCounters
  deriving DecidableEq, Repr

/-! ### Elastic stores (R14 to R18) -/

inductive StoreState where
  | idle
  | centering
  | running
  deriving DecidableEq, Repr

/-- Elastic Store ESn. `frames` is oldest first; `current` is what the latest read gave, none for silence (R16). -/
structure Store where
  state       : StoreState
  frames      : List Samples
  lastRead    : Option Samples
  current     : Option Samples
  slipWindow  : Nat
  dropSlips   : Counter
  repeatSlips : Counter
  deriving DecidableEq, Repr

/-! ### Link transmitters (R23 to R33) -/

inductive TxState where
  | off
  | waiting
  | active
  deriving DecidableEq, Repr

/-- The message in flight on a transmitter (R28). -/
structure InFlight where
  origin     : Port
  session    : SessionNo
  messageId  : BitVec 16
  wire       : List Byte
  nextByte   : Nat
  lastPlaced : Bool
  deriving DecidableEq, Repr

inductive Sending where
  | idle
  | sending (m : InFlight)
  | aborting
  deriving DecidableEq, Repr

/-- Transmitter TXn. `line` is the frame in progress on the line, none while the line is steady; `level` is the line's
steady level, or the level it had just before the first cell of the frame in progress (R24, log 19). -/
structure Transmitter where
  state   : TxState
  sending : Sending
  line    : Option LinkFrame
  level   : Bool
  deriving DecidableEq, Repr

/-- What a transmitter hands the Message Unit (R30, R32). -/
inductive TxNotice where
  | completion (origin : Port) (session : SessionNo) (messageId : BitVec 16)
  | discard (origin : Port) (session : SessionNo) (messageId : BitVec 16)
  | disable
  deriving DecidableEq, Repr

/-! ### Frame timing (R34 to R37) -/

/-- The Frame Timing Unit. `begun` is the moment of the boundary that began the current frame. -/
structure FrameTiming where
  frameCounter : FrameNo
  begun        : Time
  frameLength  : Time
  heldPeriod   : Time
  wclkEnable   : Bool
  wclkPin      : Bool
  deriving DecidableEq, Repr

/-! ### Reference selection (R38 to R61) -/

inductive RefSource where
  | empty
  | link (n : Link)
  | wclk
  deriving DecidableEq, Repr

inductive Qualification where
  | absent
  | waiting
  | qualified
  deriving DecidableEq, Repr

/-- A candidate row (R38). `restoreTimer` is the moment the timer runs out; none is stopped. -/
structure CandidateRow where
  source        : RefSource
  gradeLimit    : Grade
  lockout       : Bool
  qualification : Qualification
  restoreTimer  : Option Time
  deriving DecidableEq, Repr

inductive SelectorState where
  | freeRun
  | locking (r : RowIx)
  | locked (r : RowIx)
  | holdover
  deriving DecidableEq, Repr

inductive RequestKind where
  | manual
  | force
  deriving DecidableEq, Repr

/-- The standing request (R54); the slot's NONE is an absent request. -/
structure Request where
  kind    : RequestKind
  row     : RowIx
  owner   : Port
  session : SessionNo
  deriving DecidableEq, Repr

/-- The word-clock monitor (R40). `timedFrom` is where the interval being timed began; none before the first
rising edge. -/
structure WclkMonitor where
  present   : Bool
  goodRun   : Nat
  badRun    : Nat
  timedFrom : Option Time
  clock     : RefClock
  deriving DecidableEq, Repr

/-- The Reference Selector. `holdoverTimer` is the moment holdover runs out, none is stopped; `holdoverSince` the
moment the holdover in progress began (R50); `phase` the error R60 reports, in 1/32,768 frame. -/
structure Selector where
  table         : Tab 8 CandidateRow
  state         : SelectorState
  lastRow       : Option RowIx
  captureCount  : Nat
  holdoverTimer : Option Time
  holdoverSince : Option Time
  phase         : BitVec 16
  revertive     : Bool
  restoreWait   : Nat
  holdoverLimit : Nat
  wclkGrade     : Grade
  request       : Option Request
  monitor       : WclkMonitor
  deriving DecidableEq, Repr

inductive RefReason where
  | selected
  | captured
  | captureFail
  | phaseLoss
  | targetLost
  | holdoverExpired
  deriving DecidableEq, Repr

inductive DropReason where
  | superseded
  | cleared
  | ownerEnded
  | lockedOut
  | rowEdited
  | notQualified
  deriving DecidableEq, Repr

/-! ### The crosspoint map (R62) -/

/-- A source of a destination (00 section 4.2). -/
inductive Source where
  | silent
  | slot (link : Link) (slot : Slot)
  deriving DecidableEq, Repr

/-- A fade in progress (R62). -/
structure Fade where
  previous : Source
  length   : Nat
  elapsed  : Nat
  deriving DecidableEq, Repr

/-- A map entry; STEADY is an absent fade. -/
structure MapEntry where
  source  : Source
  mute    : Bool
  invert  : Bool
  fade    : Option Fade
  current : Sample
  deriving DecidableEq, Repr

/-! ### Sessions and claims (R82 to R102) -/

inductive EndReason where
  | none
  | closed
  | lapsed
  | replaced
  | reset
  deriving DecidableEq, Repr

/-- A set of the broadcast classes (R83, R184). -/
structure EventMask where
  peer : Bool
  link : Bool
  slip : Bool
  ref  : Bool
  deriving DecidableEq, Repr

/-- A Session Table row (R83). `isOpen` is state OPEN; `lease` is the moment the lease runs out, none is stopped. -/
structure Session where
  isOpen      : Bool
  number      : SessionNo
  leasePeriod : Nat
  lease       : Option Time
  endReason   : EndReason
  mask        : EventMask
  precedence  : Fin 4
  deriving DecidableEq, Repr

/-- The owner of a destination (R93). -/
structure Owner where
  port    : Port
  session : SessionNo
  deriving DecidableEq, Repr

/-- A session-end notice (R90). -/
structure SessionEnd where
  port    : Port
  session : SessionNo
  reason  : EndReason
  deriving DecidableEq, Repr

/-! ### Staging and commits (R103 to R128) -/

/-- A change record (section 4.4). The source part carries its fade. -/
structure ChangeRecord where
  dest   : Dest
  source : Option (Source × Nat)
  mute   : Option Bool
  invert : Option Bool
  deriving DecidableEq, Repr

/-- A staging set (R103). -/
structure Staging where
  records : List ChangeRecord
  session : Option SessionNo
  deriving DecidableEq, Repr

/-- A commit id: the port and its sequence number (R113). -/
structure CommitId where
  port     : Port
  sequence : BitVec 16
  deriving DecidableEq, Repr

/-- A change set in the commit queue (R114). -/
structure ChangeSet where
  id      : CommitId
  due     : FrameNo
  session : SessionNo
  records : List ChangeRecord
  deriving DecidableEq, Repr

/-! ### Messages (R129 to R152) -/

/-- A receive assembler (R130); IDLE is an absent buffer. Its counters are those of R135. -/
structure Assembler where
  buffer     : Option (List Byte)
  stray      : Counter
  overlong   : Counter
  truncated  : Counter
  damaged    : Counter
  aborted    : Counter
  badMessage : Counter
  deriving DecidableEq, Repr

/-- A present subscription entry (R136). -/
structure Subscription where
  low     : Byte
  high    : Byte
  session : SessionNo
  deriving DecidableEq, Repr

/-- A received message (R134). -/
structure MessageRecord where
  link    : Link
  type    : Byte
  payload : List Byte
  arrival : FrameNo
  deriving DecidableEq, Repr

/-- A mailbox (R140, R141). -/
structure Mailbox where
  records       : List MessageRecord
  session       : Option SessionNo
  overflowFlag  : Bool
  overflowCount : Counter
  deriving DecidableEq, Repr

/-- A message in a transmit queue (R144). -/
structure QueuedMessage where
  origin    : Port
  session   : SessionNo
  messageId : BitVec 16
  type      : Byte
  payload   : List Byte
  wire      : List Byte
  deriving DecidableEq, Repr

/-! ### Events (R178 to R189) -/

inductive PeerKind where
  | opened
  | closed
  | lapsed
  | replaced
  deriving DecidableEq, Repr

inductive SlipKind where
  | repeated
  | dropped
  deriving DecidableEq, Repr

/-- The kind of an event with its kind-specific data (R189). -/
inductive EventData where
  | peer (kind : PeerKind) (port : Port)
  | claimLost (count : Nat) (lowest : Dest) (by_ : Port)
  | commitTaken (id : CommitId) (frame : FrameNo) (records : Nat) (lateness : FrameNo)
  | commitRejected (id : CommitId) (frame : FrameNo) (dest : Dest)
  | commitCancelled (id : CommitId)
  | linkState (link : Link) (state : RxState) (degraded : Bool)
  | slip (link : Link) (kind : SlipKind)
  | refState (state : SelectorState) (row : Option RowIx) (reason : RefReason)
  | refRequestDropped (kind : RequestKind) (row : RowIx) (owner : Port) (reason : DropReason)
  | msgSent (id : BitVec 16)
  | msgDiscarded (id : BitVec 16)
  | mailboxOverflow (count : Counter)
  | eventsLost (count : BitVec 16)
  deriving DecidableEq, Repr

/-- To whom a raised event may go (R183): a broadcast event to every port whose open session admits its class, but for
the ports barred from it (R59, R101, logs 25 and 30); an addressed event to one port, in the session it is about (R92, R126). -/
inductive Audience where
  | all (barred : List Port)
  | only (p : Port) (session : SessionNo)
  deriving DecidableEq, Repr

/-- An event on its way to the Event Unit (section 9.2). -/
structure RaisedEvent where
  source   : EventSource
  audience : Audience
  data     : EventData
  deriving DecidableEq, Repr

/-- A queued event record (R179). -/
structure EventRecord where
  data    : EventData
  frame   : FrameNo
  session : SessionNo
  deriving DecidableEq, Repr

/-! ### Control ports (R153 to R177) -/

/-- The status of a response (R157). -/
inductive Status where
  | ok
  | badFrame
  | badCode
  | badArg
  | noSession
  | denied
  | heldBy
  | notOwner
  | full
  | empty
  | notFound
  | linkDown
  | lockedOut
  | notQualified
  | alreadyOpen
  deriving DecidableEq, Repr

/-- What a command answers: its status and its data bytes (R170). -/
structure Reply where
  status : Status
  data   : List Byte
  deriving DecidableEq, Repr

/-- A response (R171). -/
structure Response where
  tag   : Byte
  reply : Reply
  deriving DecidableEq, Repr

/-- The outbound item of a transaction (R160). -/
inductive OutItem where
  | idle
  | response (r : Response)
  | event (r : EventRecord)
  deriving DecidableEq, Repr

/-- The whole bytes clocked in by a transaction: the first 65 kept, all counted (R154), and whether every one of
them was $00, which R165 asks of all (log 23). -/
structure Inbound where
  kept    : List Byte
  count   : Nat
  allZero : Bool
  deriving DecidableEq, Repr

/-- A transaction in progress. `bytes` is the frame fixed at the fall (R160); `removed` says that the item has left
its queue otherwise than by delivery (R162). -/
structure Transaction where
  item    : OutItem
  bytes   : List Byte
  removed : Bool
  inbound : Inbound
  deriving DecidableEq, Repr

/-- Control port CPn (R154). -/
structure PortState where
  transaction : Option Transaction
  responses   : List Response
  held        : Option Inbound
  badFrames   : Counter
  dropped     : Counter
  deriving DecidableEq, Repr

/-! ### The whole part -/

/-- The state of the part. The lists `raised` to `resetToReach` hold what one block has handed on and another has
not yet taken; `pending` is the queue of commands, first in first out. -/
structure State where
  now           : Time
  receivers     : Tab 16 Receiver
  stores        : Tab 16 Store
  transmitters  : Tab 16 Transmitter
  timing        : FrameTiming
  selector      : Selector
  activeMap     : Tab 256 MapEntry
  sessions      : Tab 4 Session
  claims        : Tab 256 (Option Owner)
  staging       : Tab 4 Staging
  commitQueue   : List ChangeSet
  commitSeq     : Tab 4 (BitVec 16)
  assemblers    : Tab 16 Assembler
  subscriptions : Tab 16 (Tab 4 (Option Subscription))
  mailboxes     : Tab 4 Mailbox
  txQueues      : Tab 16 (List QueuedMessage)
  messageIds    : Tab 4 (BitVec 16)
  ports         : Tab 4 PortState
  events        : Tab 4 (List EventRecord)
  raised        : List RaisedEvent
  chmNotices    : List SessionEnd
  rslNotices    : List SessionEnd
  msuNotices    : List SessionEnd
  evuNotices    : List SessionEnd
  txNotices     : Tab 16 (List TxNotice)
  resetToReach  : List ResetBlock
  pending       : List Instr
  deriving DecidableEq, Repr

/-- Why the part stops: nothing does. No command of the part ends in a fault; a command that cannot be obeyed is
answered with a status code (R157, R170), so this type has no constructor. -/
inductive Fault where
  deriving DecidableEq, Repr

/-- Why the model has no meaning for a command. `notModelled` is raised by exec's own arms only, for a row without a
meaning; safe. -/
inductive Refusal where
  | notModelled (mnemonic : String)
  deriving DecidableEq, Repr

/-! ### Device reset -/

def RefClock.initial : RefClock := ⟨none, none⟩

/-- R3, R8, R10, R11, R12, R21. The counts of R5 and R7 have no stated value: 0 (log 21). -/
def Receiver.initial : Receiver :=
  { state := .disabled, qualifying := none, position := none, confirmCount := 0, missCount := 0
    lastGood := none, windowFrames := 0, windowDamage := 0, degraded := false, grade := 7
    clock := RefClock.initial, counters := ⟨0, 0, 0, 0, 0⟩ }

/-- R14, R18, R21; nothing has been read (log 21). -/
def Store.initial : Store :=
  { state := .idle, frames := [], lastRead := none, current := none, slipWindow := 0
    dropSlips := 0, repeatSlips := 0 }

/-- R23, R24, R28; which level the steady line has is not stated (log 19). -/
def Transmitter.initial : Transmitter := ⟨.off, .idle, none, false⟩

/-- R34 to R37. -/
def FrameTiming.initial : FrameTiming :=
  { frameCounter := 0, begun := 0, frameLength := Config.nominalPeriod, heldPeriod := Config.nominalPeriod
    wclkEnable := false, wclkPin := false }

/-- R38. -/
def CandidateRow.initial : CandidateRow := ⟨.empty, 7, false, .absent, none⟩

/-- R40. -/
def WclkMonitor.initial : WclkMonitor := ⟨false, 0, 0, none, RefClock.initial⟩

/-- R38, R40, R44, R45, R54, R60. -/
def Selector.initial : Selector :=
  { table := Tab.fill CandidateRow.initial, state := .freeRun, lastRow := none, captureCount := 0
    holdoverTimer := none, holdoverSince := none, phase := 0, revertive := true, restoreWait := 10
    holdoverLimit := 600, wclkGrade := 2, request := none, monitor := WclkMonitor.initial }

/-- R62, R77. -/
def MapEntry.initial : MapEntry := ⟨.silent, false, false, none, 0⟩

/-- R184: every class. -/
def EventMask.all : EventMask := ⟨true, true, true, true⟩

/-- R83, with the precedence the straps give. -/
def Session.initial (precedence : Fin 4) : Session :=
  { isOpen := false, number := 0, leasePeriod := 100, lease := none, endReason := .none
    mask := EventMask.all, precedence := precedence }

/-- R103. -/
def Staging.initial : Staging := ⟨[], none⟩

/-- R130, R135. -/
def Assembler.initial : Assembler := ⟨none, 0, 0, 0, 0, 0, 0⟩

/-- R140, R141, R135. -/
def Mailbox.initial : Mailbox := ⟨[], none, false, 0⟩

/-- R154. -/
def PortState.initial : PortState := ⟨none, [], none, 0, 0⟩

/-- PREC1 × 2 + PREC0, a strap tied high read as 1 (R82). -/
def precedenceOf (s : Strap) : Fin 4 :=
  match s.prec1, s.prec0 with
  | false, false => 0
  | false, true => 1
  | true, false => 2
  | true, true => 3

/-- The part on release of device reset with the given straps. -/
def State.initial (straps : Tab 4 Strap) : State :=
  { now := 0
    receivers := Tab.fill Receiver.initial
    stores := Tab.fill Store.initial
    transmitters := Tab.fill Transmitter.initial
    timing := FrameTiming.initial
    selector := Selector.initial
    activeMap := Tab.fill MapEntry.initial
    sessions := straps.map fun s => Session.initial (precedenceOf s)
    claims := Tab.fill none
    staging := Tab.fill Staging.initial
    commitQueue := []
    commitSeq := Tab.fill 0
    assemblers := Tab.fill Assembler.initial
    subscriptions := Tab.fill (Tab.fill none)
    mailboxes := Tab.fill Mailbox.initial
    txQueues := Tab.fill []
    messageIds := Tab.fill 0
    ports := Tab.fill PortState.initial
    events := Tab.fill []
    raised := []
    chmNotices := []
    rslNotices := []
    msuNotices := []
    evuNotices := []
    txNotices := Tab.fill []
    resetToReach := []
    pending := [] }

/-- The part right after device reset, every strap read as 0 (log 1). -/
def State.reset : State := State.initial (Tab.fill ⟨false, false⟩)

end Sys2Proof.Machine
end

