-- ==== Sys2Proof/Machine/Ops.lean ====
section
/-! DEFINITION. The shared operations: CRC-8, frame number comparison, saturating counters, the named updates of
State, and the raising of events. -/

namespace Sys2Proof.Machine

/-! ### Checks and numbers -/

/-- One step of the CRC-8 register over one bit already folded in: polynomial x^8 + x^2 + x + 1, not reflected (R2). -/
def crcShift (c : Byte) : Byte := if c.msb then (c <<< 1) ^^^ 0x07#8 else c <<< 1

/-- The CRC-8 register after a further byte, most significant bit first (R2). -/
def crcByte (c b : Byte) : Byte :=
  crcShift (crcShift (crcShift (crcShift (crcShift (crcShift (crcShift (crcShift (c ^^^ b))))))))

/-- The CRC-8 of a sequence of bytes: initial value 0, no final inversion (R2). -/
def crc8 (bs : List Byte) : Byte := bs.foldl crcByte 0

/-- Frame `a` is at or after frame `b` (00 section 4.3). -/
def atOrAfter (a b : FrameNo) : Bool := (a - b).toNat < 2 ^ 31

/-- Frame `a` is after frame `b` (00 section 4.3). -/
def after (a b : FrameNo) : Bool := atOrAfter a b && a != b

/-- A counter after one count: it saturates at 65,535 (R191). -/
def bump (c : Counter) : Counter := if c = 0xFFFF#16 then c else c + 1

/-! ### Named updates of State -/

namespace State

/-- Time passes on the internal time base. -/
def advance (elapsed : Time) (s : State) : State := { s with now := s.now + elapsed }

/-- The time base has reached the moment `t`, if it had not yet (log 3). -/
def advanceTo (t : Time) (s : State) : State := { s with now := max s.now t }

def onReceiver (n : Link) (f : Receiver → Receiver) (s : State) : State :=
  { s with receivers := s.receivers.modify n f }

def onStore (n : Link) (f : Store → Store) (s : State) : State :=
  { s with stores := s.stores.modify n f }

def onTransmitter (n : Link) (f : Transmitter → Transmitter) (s : State) : State :=
  { s with transmitters := s.transmitters.modify n f }

def onSession (p : Port) (f : Session → Session) (s : State) : State :=
  { s with sessions := s.sessions.modify p f }

def onAssembler (n : Link) (f : Assembler → Assembler) (s : State) : State :=
  { s with assemblers := s.assemblers.modify n f }

def onPort (p : Port) (f : PortState → PortState) (s : State) : State :=
  { s with ports := s.ports.modify p f }

def onStaging (p : Port) (f : Staging → Staging) (s : State) : State :=
  { s with staging := s.staging.modify p f }

def onMailbox (p : Port) (f : Mailbox → Mailbox) (s : State) : State :=
  { s with mailboxes := s.mailboxes.modify p f }

def onTiming (f : FrameTiming → FrameTiming) (s : State) : State := { s with timing := f s.timing }

def onSelector (f : Selector → Selector) (s : State) : State := { s with selector := f s.selector }

/-- Candidate row `r` changed. -/
def onRow (r : RowIx) (f : CandidateRow → CandidateRow) (s : State) : State :=
  s.onSelector fun l => { l with table := l.table.modify r f }

/-- A block hands the Event Unit an event (section 9.2). -/
def raise (source : EventSource) (audience : Audience) (data : EventData) (s : State) : State :=
  { s with raised := s.raised ++ [⟨source, audience, data⟩] }

/-- The ports that a soft reset has closed and no OPEN has opened since: "An event is queued for a port only if it is
raised after that port's next OPEN" (R101, log 25). -/
def barredPorts (s : State) : List Port :=
  (List.finRange 4).filter fun p => !(s.sessions.get p).isOpen && (s.sessions.get p).endReason == .reset

/-- The audience of a broadcast event raised now (R183, R101). -/
def everyone (s : State) : Audience := .all s.barredPorts

/-- The current frame's number (R34). -/
def frame (s : State) : FrameNo := s.timing.frameCounter

/-- The port has an open session. -/
def isOpen (s : State) (p : Port) : Bool := (s.sessions.get p).isOpen

/-- The port's present session number. -/
def sessionNo (s : State) (p : Port) : SessionNo := (s.sessions.get p).number

/-- The port's session is open with the recorded number (R123, R136, R147). -/
def openWith (s : State) (p : Port) (number : SessionNo) : Bool := s.isOpen p && s.sessionNo p == number

/-- The port's precedence (R82). -/
def precedence (s : State) (p : Port) : Fin 4 := (s.sessions.get p).precedence

/-- Destination `d` is owned by port `p` with session number `number` (R93). -/
def owns (s : State) (p : Port) (number : SessionNo) (d : Dest) : Bool := s.claims.get d == some ⟨p, number⟩

end State

/-- The first item of a list that meets a test, and the list without it: how a block takes the oldest notice that
concerns one port, link or raising block. -/
def takeFirst {α : Type} (f : α → Bool) : List α → Option (α × List α)
  | [] => none
  | x :: xs =>
    if f x then some (x, xs)
    else match takeFirst f xs with
      | some (y, ys) => some (y, x :: ys)
      | none => none

/-- A reference event at `now`: it ends an interval if one was begun (R35). -/
def RefClock.event (now : Time) (c : RefClock) : RefClock :=
  match c.last with
  | none => ⟨some now, c.interval⟩
  | some t => ⟨some now, some (now - t)⟩

end Sys2Proof.Machine
end

