-- ==== Sys2Proof/Machine/Operands.lean ====
section
/-! DEFINITION. The field types of R159 in both directions: reading the parameters of a command frame and writing
the data of an outbound frame, and the codes of R157, R158 and R189. -/

namespace Sys2Proof.Machine

/-! ### Numbers -/

/-- A 16-bit number, most significant byte first (R159). -/
def bytes16 (w : BitVec 16) : List Byte := [w.extractLsb' 8 8, w.extractLsb' 0 8]

/-- A natural number sent as a 16-bit number. -/
def nat16 (n : Nat) : List Byte := bytes16 (BitVec.ofNat 16 n)

/-- A 32-bit number, most significant byte first (R159). -/
def bytes32 (w : BitVec 32) : List Byte :=
  [w.extractLsb' 24 8, w.extractLsb' 16 8, w.extractLsb' 8 8, w.extractLsb' 0 8]

/-- A sample, most significant byte first (R1, R159). -/
def sampleBytes (w : Sample) : List Byte := [w.extractLsb' 16 8, w.extractLsb' 8 8, w.extractLsb' 0 8]

/-- A small number. -/
def small (n : Nat) : List Byte := [BitVec.ofNat 8 n]

/-- On or off (R159). -/
def onOff (b : Bool) : List Byte := [if b then 1 else 0]

/-- A one-byte value that may be none, sent as $FF (R159). -/
def orNone (n : Option Nat) : List Byte := [match n with | some k => BitVec.ofNat 8 k | none => 0xFF]

/-- The number formed by two bytes, most significant first. -/
def word16 (hi lo : Byte) : BitVec 16 := hi ++ lo

/-- The number formed by four bytes, most significant first. -/
def word32 (a b c d : Byte) : BitVec 32 := a ++ b ++ c ++ d

/-- The sample formed by three bytes, most significant first (R1). -/
def word24 (a b c : Byte) : Sample := a ++ b ++ c

/-- A time remaining in whole milliseconds, rounded down (R159, log 16); `deadline` is when the timer runs out. -/
def remainingMs (now deadline : Time) : Nat := (deadline - now) / Config.millisecond

/-- A timer's time remaining, $FFFFFFFF when stopped (R159). -/
def timeRemaining (now : Time) (timer : Option Time) : List Byte :=
  match timer with
  | some d => bytes32 (BitVec.ofNat 32 (remainingMs now d))
  | none => bytes32 0xFFFFFFFF

/-! ### Reading parameters; none is a malformed argument -/

/-- $00 off, $01 on. -/
def readOnOff (b : Byte) : Option Bool := if b = 0 then some false else if b = 1 then some true else none

/-- A link, 0 to 15. -/
def readLink (b : Byte) : Option Link := if h : b.toNat < 16 then some ⟨b.toNat, h⟩ else none

/-- A row, 1 to 8. -/
def readRow (b : Byte) : Option RowIx :=
  if h : 1 ≤ b.toNat ∧ b.toNat ≤ 8 then some ⟨b.toNat - 1, by omega⟩ else none

/-- A port, 0 to 3. -/
def readPort (b : Byte) : Option Port := if h : b.toNat < 4 then some ⟨b.toNat, h⟩ else none

/-- A destination: every byte names one. -/
def readDest (b : Byte) : Dest := ⟨b.toNat, b.isLt⟩

/-- A grade 0 to 7. -/
def readGrade (b : Byte) : Option Grade := if b.toNat ≤ 7 then some (b.setWidth 3) else none

/-- A map source: link then slot; SILENT is $FF $FF. -/
def readSource (a b : Byte) : Option Source :=
  if a = 0xFF ∧ b = 0xFF then some .silent
  else match readLink a, readLink b with
    | some l, some s => some (.slot l s)
    | _, _ => none

/-- A reference source: $00 to $0F LINK, $10 WCLK, $FF EMPTY. -/
def readRefSource (b : Byte) : Option RefSource :=
  if b = 0xFF then some .empty
  else if b = 0x10 then some .wclk
  else match readLink b with
    | some n => some (.link n)
    | none => none

/-! ### Writing data -/

def sourceBytes : Source → List Byte
  | .silent => [0xFF, 0xFF]
  | .slot l s => small l ++ small s

def refSourceByte : RefSource → List Byte
  | .link n => small n
  | .wclk => [0x10]
  | .empty => [0xFF]

def commitIdBytes (c : CommitId) : List Byte := small c.port ++ bytes16 c.sequence

/-- A row is sent by its number 1 to 8, none as $FF. -/
def rowByte (r : Option RowIx) : List Byte := orNone (r.map fun i => i.val + 1)

def portByte (p : Option Port) : List Byte := orNone (p.map fun i => i.val)

/-- A grade as a small number. -/
def gradeByte (g : Grade) : List Byte := [g.setWidth 8]

/-- A session number; $00 where there is none (R159). -/
def sessionByte (n : Option SessionNo) : List Byte := [n.getD 0]

/-! Named values, by position (R159, R189). -/

def RxState.code : RxState → Nat
  | .disabled => 0 | .noSignal => 1 | .search => 2 | .confirm => 3 | .inFrame => 4

def StoreState.code : StoreState → Nat
  | .idle => 0 | .centering => 1 | .running => 2

def SelectorState.code : SelectorState → Nat
  | .freeRun => 0 | .locking _ => 1 | .locked _ => 2 | .holdover => 3

/-- The row of LOCKING or LOCKED. -/
def SelectorState.row : SelectorState → Option RowIx
  | .locking r => some r
  | .locked r => some r
  | .freeRun | .holdover => none

def RefReason.code : RefReason → Nat
  | .selected => 0 | .captured => 1 | .captureFail => 2 | .phaseLoss => 3 | .targetLost => 4 | .holdoverExpired => 5

def DropReason.code : DropReason → Nat
  | .superseded => 0 | .cleared => 1 | .ownerEnded => 2 | .lockedOut => 3 | .rowEdited => 4 | .notQualified => 5

/-- Of the list NONE, MANUAL, FORCE (R54). -/
def RequestKind.code : RequestKind → Nat
  | .manual => 1 | .force => 2

def Qualification.code : Qualification → Nat
  | .absent => 0 | .waiting => 1 | .qualified => 2

def EndReason.code : EndReason → Nat
  | .none => 0 | .closed => 1 | .lapsed => 2 | .replaced => 3 | .reset => 4

/-- R157. -/
def Status.code : Status → Byte
  | .ok => 0x00 | .badFrame => 0x01 | .badCode => 0x02 | .badArg => 0x03 | .noSession => 0x04 | .denied => 0x05
  | .heldBy => 0x06 | .notOwner => 0x07 | .full => 0x08 | .empty => 0x09 | .notFound => 0x0A | .linkDown => 0x0B
  | .lockedOut => 0x0C | .notQualified => 0x0D | .alreadyOpen => 0x0E

/-- R158. -/
def EventData.code : EventData → Byte
  | .peer .opened _ => 0x01
  | .peer .closed _ => 0x02
  | .peer .lapsed _ => 0x03
  | .peer .replaced _ => 0x04
  | .claimLost _ _ _ => 0x10
  | .commitTaken _ _ _ _ => 0x20
  | .commitRejected _ _ _ => 0x21
  | .commitCancelled _ => 0x22
  | .linkState _ _ _ => 0x30
  | .slip _ _ => 0x31
  | .refState _ _ _ => 0x40
  | .refRequestDropped _ _ _ _ => 0x41
  | .msgSent _ => 0x50
  | .msgDiscarded _ => 0x51
  | .mailboxOverflow _ => 0x52
  | .eventsLost _ => 0x7F

/-- The kind-specific data of R189. -/
def EventData.bytes : EventData → List Byte
  | .peer _ p => small p
  | .claimLost n d q => nat16 n ++ small d ++ small q
  | .commitTaken i f n l => commitIdBytes i ++ bytes32 f ++ small n ++ small l.toNat
  | .commitRejected i f d => commitIdBytes i ++ bytes32 f ++ small d
  | .commitCancelled i => commitIdBytes i
  | .linkState n st dg => small n ++ small st.code ++ onOff dg
  | .slip n k => small n ++ small (match k with | .repeated => 0 | .dropped => 1)
  | .refState st r why => small st.code ++ rowByte r ++ small why.code
  | .refRequestDropped k r o why => small k.code ++ rowByte (some r) ++ small o ++ small why.code
  | .msgSent i => bytes16 i
  | .msgDiscarded i => bytes16 i
  | .mailboxOverflow c => bytes16 c
  | .eventsLost c => bytes16 c

/-- A change record as STAGING_READ gives it: its destination, the presence byte of STAGE, then the parts present
(R110, R159, log 17). -/
def ChangeRecord.bytes (r : ChangeRecord) : List Byte :=
  small r.dest
    ++ small ((if r.source.isSome then 1 else 0) + (if r.mute.isSome then 2 else 0) + (if r.invert.isSome then 4 else 0))
    ++ (match r.source with | some (src, fade) => sourceBytes src ++ nat16 fade | none => [])
    ++ (match r.mute with | some m => onOff m | none => [])
    ++ (match r.invert with | some v => onOff v | none => [])

/-- The data of an event frame (R158, R189). -/
def EventRecord.bytes (r : EventRecord) : List Byte := bytes32 r.frame ++ [r.session] ++ r.data.bytes

/-! ### Outbound frames (R156) -/

/-- The outbound frame with the given kind, byte 2, byte 3 and data. -/
def outboundFrame (kind second third : Byte) (data : List Byte) : List Byte :=
  let body := [0x5C, kind, second, third, BitVec.ofNat 8 data.length] ++ data
  body ++ [crc8 body]

/-- The frame of an outbound item (R156). -/
def OutItem.frame : OutItem → List Byte
  | .idle => outboundFrame 0x00 0x00 0x00 []
  | .response r => outboundFrame 0x01 r.tag r.reply.status.code r.reply.data
  | .event r => outboundFrame 0x02 r.data.code 0x00 r.bytes

/-- Byte `k` that a transaction shifts out: its frame, then $00 (R156). -/
def sdoByte (frame : List Byte) (k : Nat) : Byte := frame.getD k 0

/-! ### Replies -/

/-- A command taken with OK. -/
def ok (data : List Byte) : Reply := ⟨.ok, data⟩

/-- A refusal without data (R170). -/
def refuse (st : Status) : Reply := ⟨st, []⟩

/-- BAD_ARG. -/
def badArg : Reply := refuse .badArg

/-- HELD_BY naming a port (R170). -/
def heldByPort (p : Port) : Reply := ⟨.heldBy, small p⟩

end Sys2Proof.Machine
end

