-- ==== Sys2Proof/Machine/Sessions.lean ====
section
/-! DEFINITION. The Session and Claim Unit (chapter 5, R82 to R102): sessions, leases, teardown, claims. -/

namespace Sys2Proof.Machine

/-! ### Leases (R86) -/

/-- The lease remaining reloaded with the lease period. -/
def Session.renew (now : Time) (r : Session) : Session :=
  { r with lease := some (now + r.leasePeriod * Config.millisecond) }

/-- A command frame taken renews the lease of an open session (R86, R168). -/
def State.renewLease (p : Port) (s : State) : State :=
  if s.isOpen p then s.onSession p (Session.renew s.now) else s

/-! ### Opening and teardown (R84, R85, R90, R91) -/

/-- The row of a port opened with a lease (R84). -/
def Session.opened (lease : Nat) (now : Time) (r : Session) : Session :=
  { r with
    number := r.number + 1
    leasePeriod := lease
    lease := some (now + lease * Config.millisecond)
    mask := EventMask.all
    isOpen := true }

/-- The row after a teardown: CLOSED, its number kept (R90). -/
def Session.closed (why : EndReason) (r : Session) : Session :=
  { r with isOpen := false, endReason := why, lease := none }

/-- A claim of port p released (R90). -/
def releaseOwner (p : Port) (o : Option Owner) : Option Owner :=
  match o with
  | some w => if w.port = p then none else some w
  | none => none

/-- The PEER event of a teardown's reason (R91). -/
def peerOf : EndReason → PeerKind
  | .closed => .closed
  | .lapsed => .lapsed
  | .replaced => .replaced
  | .none | .reset => .closed

/-- The teardown of port p, in the order of R90. -/
def State.teardown (p : Port) (why : EndReason) (s : State) : State :=
  let notice : SessionEnd := ⟨p, s.sessionNo p, why⟩
  let s1 := s.onSession p (Session.closed why)
  let s2 := { s1 with
    claims := s1.claims.map (releaseOwner p)
    chmNotices := s1.chmNotices ++ [notice]
    rslNotices := s1.rslNotices ++ [notice]
    msuNotices := s1.msuNotices ++ [notice]
    evuNotices := s1.evuNotices ++ [notice] }
  s2.raise .sessionUnit s2.everyone (.peer (peerOf why) p)

/-- Port p opened as R84 gives for a CLOSED port, with its response. -/
def State.openRow (p : Port) (lease : Nat) (s : State) : State × Reply :=
  let was := (s.sessions.get p).endReason
  let s0 := s.onSession p (Session.opened lease s.now)
  let s1 := s0.raise .sessionUnit s0.everyone (.peer .opened p)
  (s1, ok ([s1.sessionNo p] ++ small was.code ++ nat16 lease ++ small (s1.precedence p).val))

/-- OPEN (lease, replace flag) (R84, R85). On an OPEN row with the replace flag off, a lease outside 100 to 60,000 ms is
answered BAD_ARG before ALREADY_OPEN: the rules do not order the two, and this is the model's choice (log 37). -/
def openHandler (p : Port) (ps : List Byte) (s : State) : State × Reply :=
  match ps with
  | [a, b, c] =>
    let lease := (word16 a b).toNat
    match readOnOff c with
    | none => (s, badArg)
    | some replace =>
      if lease < 100 ∨ 60000 < lease then (s, badArg)
      else if s.isOpen p then
        if replace then (s.teardown p .replaced).openRow p lease
        else (s, ⟨.alreadyOpen, [s.sessionNo p]⟩)
      else s.openRow p lease
  | _ => (s, badArg)

/-- LEASE_EXPIRY: the lease of an OPEN row runs out (R87). -/
def execLeaseExpiry (p : Port) (s : State) : Host.Outcome State Fault Refusal :=
  .next <|
    match s.isOpen p, (s.sessions.get p).lease with
    | true, some d => (s.advanceTo d).teardown p .lapsed
    | _, _ => s

/-- PING (R88). -/
def pingHandler (p : Port) (s : State) : State × Reply :=
  (s, ok ([s.sessionNo p] ++ nat16 (s.sessions.get p).leasePeriod ++ small (s.precedence p).val))

/-- CLOSE (R89): the response carries the number being closed. It is queued by the port; the teardown does not touch
response queues, so the order of the two is not seen (R90). -/
def closeHandler (p : Port) (s : State) : State × Reply :=
  (s.teardown p .closed, ok [s.sessionNo p])

/-! ### Claims (R94 to R98) -/

/-- The destinations from `first` to `last`, in order. -/
def destRange (first last : Nat) : List Dest :=
  (List.finRange 256).filter fun d => first ≤ d.val ∧ d.val ≤ last

/-- The other port that owns a destination, if one does. -/
def otherOwner (s : State) (p : Port) (d : Dest) : Option Port :=
  match s.claims.get d with
  | some w => if w.port = p then none else some w.port
  | none => none

/-- Destination d is a conflict for port p: owned by another port in NORMAL mode, and in PREEMPT mode by another port
of equal or higher precedence (R94, R95). -/
def isConflict (s : State) (p : Port) (preempt : Bool) (d : Dest) : Bool :=
  match otherOwner s p d with
  | some q => !preempt || decide (s.precedence p ≤ s.precedence q)
  | none => false

/-- The Claim Table after a claim: what the port already owned keeps its entry (R94). -/
def claimed (s : State) (p : Port) (first last : Nat) : Tab 256 (Option Owner) :=
  Tab.tabulate fun d =>
    if first ≤ d.val ∧ d.val ≤ last then
      match s.claims.get d with
      | some w => if w.port = p then some w else some ⟨p, s.sessionNo p⟩
      | none => some ⟨p, s.sessionNo p⟩
    else s.claims.get d

/-- The destinations of the range that port q loses to a claim of port p (R95). -/
def lostBy (s : State) (p q : Port) (first last : Nat) : List Dest :=
  (destRange first last).filter fun d => otherOwner s p d == some q

/-- CLAIM_LOST to each port that loses destinations, in its present session, by port (R92, R95, log 18). -/
def claimLostEvents (s : State) (p : Port) (first last : Nat) : List RaisedEvent :=
  (List.finRange 4).filterMap fun q =>
    match lostBy s p q first last with
    | [] => none
    | d :: ds => some ⟨.sessionUnit, .only q (s.sessionNo q), .claimLost (d :: ds).length d p⟩

/-- The number of destinations that become owned by port p. -/
def claimedCount (s : State) (p : Port) (first last : Nat) : Nat :=
  ((destRange first last).filter fun d => (s.claims.get d).map (·.port) != some p).length

/-- The number of destinations taken from other ports. -/
def takenCount (s : State) (p : Port) (first last : Nat) : Nat :=
  ((destRange first last).filter fun d => (otherOwner s p d).isSome).length

/-- The lowest conflict of a claim and its owner (R94). -/
def lowestConflict (s : State) (p : Port) (preempt : Bool) (first last : Nat) : Option (Dest × Port) :=
  match (destRange first last).find? (isConflict s p preempt) with
  | some d => (otherOwner s p d).map fun q => (d, q)
  | none => none

/-- Claim mode: $00 NORMAL, $01 PREEMPT (R159). -/
def readClaimMode (b : Byte) : Option Bool := readOnOff b

/-- CLAIM (first, last, mode) (R94, R95). -/
def claimHandler (p : Port) (ps : List Byte) (s : State) : State × Reply :=
  match ps with
  | [a, b, c] =>
    match readClaimMode c with
    | none => (s, badArg)
    | some preempt =>
      let first := a.toNat
      let last := b.toNat
      if last < first then (s, badArg)
      else match lowestConflict s p preempt first last with
        | some (d, q) => (s, ⟨.heldBy, small d.val ++ small q.val⟩)
        | none =>
          ({ s with
              claims := claimed s p first last
              raised := s.raised ++ claimLostEvents s p first last },
            ok (nat16 (claimedCount s p first last) ++ nat16 (takenCount s p first last)))
  | _ => (s, badArg)

/-- The Claim Table after a release by port p over a range (R97). -/
def released (s : State) (p : Port) (first last : Nat) : Tab 256 (Option Owner) :=
  Tab.tabulate fun d =>
    if first ≤ d.val ∧ d.val ≤ last then releaseOwner p (s.claims.get d) else s.claims.get d

/-- The number of destinations port p owns in a range. -/
def ownedCount (s : State) (p : Port) (first last : Nat) : Nat :=
  ((destRange first last).filter fun d => (s.claims.get d).map (·.port) == some p).length

/-- RELEASE (first, last) (R97). -/
def releaseHandler (p : Port) (ps : List Byte) (s : State) : State × Reply :=
  match ps with
  | [a, b] =>
    if b.toNat < a.toNat then (s, badArg)
    else ({ s with claims := released s p a.toNat b.toNat }, ok (nat16 (ownedCount s p a.toNat b.toNat)))
  | _ => (s, badArg)

/-- An owner and its session number as QUERY_OWNER gives them (R98, R159). -/
def ownerBytes (o : Option Owner) : List Byte :=
  portByte (o.map (·.port)) ++ sessionByte (o.map (·.session))

/-- QUERY_OWNER (first, last) (R98). -/
def queryOwnerHandler (ps : List Byte) (s : State) : State × Reply :=
  match ps with
  | [a, b] =>
    if b.toNat < a.toNat ∨ 32 < b.toNat - a.toNat + 1 then (s, badArg)
    else (s, ok ((destRange a.toNat b.toNat).flatMap fun d => ownerBytes (s.claims.get d)))
  | _ => (s, badArg)

/-! ### Soft reset at the Session and Claim Unit (R101) -/

/-- Every row CLOSED with end reason RESET, every lease stopped, every claim released (R101). An event on its way can
reach no session any more, for it was raised before every port's next OPEN: it is discarded (R101, R187, R188,
log 25). -/
def State.softResetSessions (s : State) : State :=
  { s with sessions := s.sessions.map (Session.closed .reset), claims := Tab.fill none, raised := [] }

end Sys2Proof.Machine
end

