-- ==== Sys2Proof/Machine/Map.lean ====
section
/-! DEFINITION. The Crosspoint Engine (chapter 4, R62 to R81): the samples of a frame, fades, the effect of a change
record, soft reset and READ_MAP. -/

namespace Sys2Proof.Machine

/-! ### Samples of a frame (R63 to R68) -/

/-- The sample of a source for the frame begun: SILENT and a link whose read gave silence give 0 (R63). -/
def sourceSample (s : State) : Source → Sample
  | .silent => 0
  | .slot n i =>
    match (s.stores.get n).current with
    | some f => f.get i
    | none => 0

/-- The mixed value of a fade, div rounding toward zero (R66). -/
def fadeMix (old new : Int) (length elapsed : Nat) : Int :=
  old + ((new - old) * (elapsed + 1)).tdiv (length + 1)

/-- Negation, −8,388,608 giving +8,388,607 (R68). -/
def negateSample (v : Int) : Int := if v = -8388608 then 8388607 else -v

/-- The value of an entry before invert, mute off (R65, R66). -/
def entryValue (s : State) (e : MapEntry) : Int :=
  match e.fade with
  | none => (sourceSample s e.source).toInt
  | some f => fadeMix (sourceSample s f.previous).toInt (sourceSample s e.source).toInt f.length f.elapsed

/-- The sample of a destination for the frame begun (R65 to R68). -/
def destinationSample (s : State) (e : MapEntry) : Sample :=
  if e.mute then 0
  else if e.invert then BitVec.ofInt 24 (negateSample (entryValue s e))
  else BitVec.ofInt 24 (entryValue s e)

/-- A FADING entry advances; at its length it becomes STEADY (R67). -/
def MapEntry.advance (e : MapEntry) : MapEntry :=
  match e.fade with
  | none => e
  | some f =>
    if f.elapsed + 1 < f.length then { e with fade := some { f with elapsed := f.elapsed + 1 } }
    else { e with fade := none }

/-- The engine's work for the frame begun: every sample is computed and stored, then every fade advances (R64). -/
def State.computeMap (s : State) : State :=
  { s with activeMap := s.activeMap.map fun e => ({ e with current := destinationSample s e } : MapEntry).advance }

/-! ### Applying a change record (R69 to R75) -/

/-- The source part of a record (R70 to R74). -/
def MapEntry.applySource (part : Option (Source × Nat)) (e : MapEntry) : MapEntry :=
  match part with
  | none => e
  | some (src, fade) =>
    if src = e.source then e
    else if fade = 0 then { e with source := src, fade := none }
    else { e with source := src, fade := some ⟨e.source, fade, 0⟩ }

/-- A record acts on its entry: the source part, then mute and invert (R69, R75). -/
def MapEntry.apply (r : ChangeRecord) (e : MapEntry) : MapEntry :=
  let e1 := e.applySource r.source
  { e1 with mute := r.mute.getD e1.mute, invert := r.invert.getD e1.invert }

/-- A record applied to the map: its own entry alone changes (R69). -/
def applyRecord (m : Tab 256 MapEntry) (r : ChangeRecord) : Tab 256 MapEntry := m.modify r.dest (MapEntry.apply r)

/-- Every record of a set applied (R69, R122). -/
def applyRecords (rs : List ChangeRecord) (m : Tab 256 MapEntry) : Tab 256 MapEntry := rs.foldl applyRecord m

/-! ### Soft reset and reading (R78 to R80) -/

/-- Soft reset keeps the current sample alone (R78). -/
def MapEntry.softReset (e : MapEntry) : MapEntry := { MapEntry.initial with current := e.current }

/-- An entry as READ_MAP gives it (R79). -/
def MapEntry.bytes (d : Nat) (e : MapEntry) : List Byte :=
  small d ++ sourceBytes e.source ++ onOff e.mute ++ onOff e.invert ++ onOff e.fade.isSome
    ++ (match e.fade with
        | some f => sourceBytes f.previous ++ nat16 f.length ++ nat16 f.elapsed
        | none => [])
    ++ sampleBytes e.current

/-- READ_MAP (first, count) (R79). -/
def readMapHandler (ps : List Byte) (s : State) : State × Reply :=
  match ps with
  | [a, b] =>
    if b.toNat = 0 ∨ 8 < b.toNat ∨ 255 < a.toNat + b.toNat - 1 then (s, badArg)
    else
      (s, ok (bytes32 s.frame ++
        (((List.finRange 256).drop a.toNat).take b.toNat).flatMap fun d => (s.activeMap.get d).bytes d))
  | _ => (s, badArg)

end Sys2Proof.Machine
end

