-- ==== Sys2Proof/Machine/Changes.lean ====
section
/-! DEFINITION. The Change Manager (chapter 6, R103 to R128): staging sets, commits, the commit queue and the take. -/

namespace Sys2Proof.Machine

/-! ### Staging (R103 to R110) -/

/-- A stale staging set is emptied before a command of its port acts on it (R104). -/
def Staging.fresh (number : SessionNo) (t : Staging) : Staging :=
  if t.session ≠ none ∧ t.session ≠ some number then Staging.initial else t

/-- The port's staging set with a stale one emptied (R104). -/
def State.freshStaging (p : Port) (s : State) : State := s.onStaging p (Staging.fresh (s.sessionNo p))

/-- The optional parts of a STAGE, read as its presence byte says; none is malformed (R105, R159). -/
def readParts (b : Byte) (rest : List Byte) : Option (Option (Source × Nat) × Option Bool × Option Bool) :=
  if b = 0 ∨ 8 ≤ b.toNat then none
  else
    let part := if b.getLsbD 0 then
        match rest with
        | l :: i :: f :: g :: r1 =>
          (readSource l i).bind fun src =>
            if (word16 f g).toNat ≤ 4095 then some (some (src, (word16 f g).toNat), r1) else none
        | _ => none
      else some (none, rest)
    part.bind fun (src, r1) =>
      let mute := if b.getLsbD 1 then
          match r1 with
          | m :: r2 => (readOnOff m).map fun v => (some v, r2)
          | [] => none
        else some (none, r1)
      mute.bind fun (m, r2) =>
        let invert := if b.getLsbD 2 then
            match r2 with
            | v :: r3 => (readOnOff v).map fun w => (some w, r3)
            | [] => none
          else some (none, r2)
        invert.bind fun (v, r3) => if r3 = [] then some (src, m, v) else none

/-- The change record of STAGE's parameters, if it is well formed (R105). -/
def readRecord (ps : List Byte) : Option ChangeRecord :=
  match ps with
  | d :: b :: rest => (readParts b rest).map fun (src, m, v) => ⟨readDest d, src, m, v⟩
  | _ => none

/-- The place of a destination's record in a list, counted from 0. -/
def recordIndex (d : Dest) (rs : List ChangeRecord) : Option Nat := rs.findIdx? fun r => r.dest == d

/-- The record placed: an old record for its destination replaced whole in the same place, else appended (R106). -/
def placeRecord (r : ChangeRecord) (rs : List ChangeRecord) : List ChangeRecord :=
  if (recordIndex r.dest rs).isSome then rs.map fun x => if x.dest = r.dest then r else x else rs ++ [r]

/-- The position of the record in the set, from 1 (R106). -/
def recordPosition (d : Dest) (rs : List ChangeRecord) : Nat :=
  match recordIndex d rs with
  | some i => i + 1
  | none => rs.length + 1

/-- STAGE (record) (R105, R106). -/
def stageHandler (p : Port) (ps : List Byte) (s0 : State) : State × Reply :=
  let s := s0.freshStaging p
  let set := s.staging.get p
  match readRecord ps with
  | none => (s, badArg)
  | some r =>
    if !s.owns p (s.sessionNo p) r.dest then (s, ⟨.notOwner, small r.dest.val⟩)
    else if (recordIndex r.dest set.records).isNone ∧ Config.stagingMax ≤ set.records.length then
      (s, refuse .full)
    else
      let rs := placeRecord r set.records
      (s.onStaging p fun t => { records := rs, session := if set.records = [] then some (s.sessionNo p) else t.session },
        ok (small (recordPosition r.dest set.records) ++ small rs.length
          ++ small (if (recordIndex r.dest set.records).isSome then 1 else 0)))

/-- A staging set with the given records; empty, it has no session number (R103). -/
def Staging.keep (rs : List ChangeRecord) (t : Staging) : Staging :=
  if rs = [] then Staging.initial else { t with records := rs }

/-- UNSTAGE (destination) (R107). -/
def unstageHandler (p : Port) (ps : List Byte) (s0 : State) : State × Reply :=
  match ps with
  | [a] =>
    let s := s0.freshStaging p
    let rs := (s.staging.get p).records
    if (recordIndex (readDest a) rs).isNone then (s, refuse .notFound)
    else
      let left := rs.filter fun r => r.dest != readDest a
      (s.onStaging p (Staging.keep left), ok (small left.length))
  | _ => (s0, badArg)

/-- DISCARD (R108). -/
def discardHandler (p : Port) (s0 : State) : State × Reply :=
  let s := s0.freshStaging p
  (s.onStaging p fun _ => Staging.initial, ok (small (s.staging.get p).records.length))

/-- STAGING_READ (start) (R110). -/
def stagingReadHandler (p : Port) (ps : List Byte) (s0 : State) : State × Reply :=
  match ps with
  | [a] =>
    if a.toNat < 1 ∨ 32 < a.toNat then (s0, badArg)
    else
      let s := s0.freshStaging p
      let set := s.staging.get p
      (s, ok (small set.records.length ++ sessionByte set.session
        ++ ((set.records.drop (a.toNat - 1)).take 8).flatMap ChangeRecord.bytes))
  | _ => (s0, badArg)

/-! ### Committing (R111 to R115) -/

/-- The due frame settled from the one given, at current frame c; none is refused BAD_ARG (R112). -/
def settleDue (c : FrameNo) (given : Option FrameNo) : Option FrameNo :=
  match given with
  | none => some (c + 1)
  | some d =>
    let k := (d - c).toNat
    if k = 0 then some (c + 1)
    else if k ≤ Config.dueMax then some d
    else if k < 2 ^ 31 then none
    else some (c + 1)

/-- A set placed behind every set due at or before it and ahead of every set due after it (R115). -/
def insertSet (x : ChangeSet) : List ChangeSet → List ChangeSet
  | [] => [x]
  | y :: ys => if atOrAfter x.due y.due then y :: insertSet x ys else x :: y :: ys

/-- The number of sets ahead of a set of the given due frame once it is placed. -/
def setsAhead (x : ChangeSet) : List ChangeSet → Nat
  | [] => 0
  | y :: ys => if atOrAfter x.due y.due then setsAhead x ys + 1 else 0

/-- The sets of a port in the queue (R111). -/
def setsOf (p : Port) (q : List ChangeSet) : Nat := (q.filter fun x => x.id.port == p).length

/-- The first record that names a destination the port does not own with the given session number (R111, R121). -/
def firstFailing (s : State) (p : Port) (number : SessionNo) (rs : List ChangeRecord) : Option ChangeRecord :=
  rs.find? fun r => !s.owns p number r.dest

/-- The due frame of COMMIT's parameters: empty, or one frame number (R111). -/
def readDue (ps : List Byte) : Option (Option FrameNo) :=
  match ps with
  | [] => some none
  | [a, b, c, d] => some (some (word32 a b c d))
  | _ => none

/-- COMMIT (due frame, optional) (R111 to R114). -/
def commitHandler (p : Port) (ps : List Byte) (s0 : State) : State × Reply :=
  match readDue ps with
  | none => (s0, badArg)
  | some given =>
    let s := s0.freshStaging p
    let rs := (s.staging.get p).records
    if rs = [] then (s, refuse .empty)
    else if Config.commitsPerPort ≤ setsOf p s.commitQueue then (s, refuse .full)
    else match firstFailing s p (s.sessionNo p) rs with
      | some r => (s, ⟨.notOwner, small r.dest.val⟩)
      | none =>
        match settleDue s.frame given with
        | none => (s, badArg)
        | some due =>
          let sequence := s.commitSeq.get p + 1
          let x : ChangeSet := ⟨⟨p, sequence⟩, due, s.sessionNo p, rs⟩
          ({ s with
              commitSeq := s.commitSeq.put p sequence
              commitQueue := insertSet x s.commitQueue
              staging := s.staging.put p Staging.initial },
            ok (commitIdBytes x.id ++ bytes32 due ++ small rs.length ++ small (setsAhead x s.commitQueue)))

/-! ### Cancelling and listing (R117, R118) -/

/-- The set CANCEL names: of the issuing port, with its present session number (R117). -/
def isCancelled (s : State) (p : Port) (sequence : BitVec 16) (x : ChangeSet) : Bool :=
  x.id.port == p && x.id.sequence == sequence && x.session == s.sessionNo p

/-- CANCEL (commit id) (R117). -/
def cancelHandler (p : Port) (ps : List Byte) (s : State) : State × Reply :=
  match ps with
  | [a, b, c] =>
    match readPort a with
    | none => (s, badArg)
    | some q =>
      if q ≠ p then (s, refuse .notFound)
      else match takeFirst (isCancelled s p (word16 b c)) s.commitQueue with
        | none => (s, refuse .notFound)
        | some (x, rest) =>
          (({ s with commitQueue := rest }).raise .changeManager (.only p (s.sessionNo p)) (.commitCancelled x.id),
            ok (commitIdBytes x.id ++ bytes32 x.due ++ small x.records.length))
  | _ => (s, badArg)

/-- The port's sets of its present session with the number of sets ahead of each, in queue order (R118). -/
def listedSets (p : Port) (number : SessionNo) : Nat → List ChangeSet → List Byte
  | _, [] => []
  | k, x :: xs =>
    (if x.id.port = p ∧ x.session = number then
      commitIdBytes x.id ++ bytes32 x.due ++ small x.records.length ++ small k
    else []) ++ listedSets p number (k + 1) xs

/-- COMMIT_LIST (R118). -/
def commitListHandler (p : Port) (s : State) : State × Reply :=
  (s, ok (bytes32 s.frame ++ small s.commitQueue.length ++ listedSets p (s.sessionNo p) 0 s.commitQueue))

/-! ### The take (R119 to R123) -/

/-- A valid set is applied, with COMMIT_TAKEN to its port (R120, R122). -/
def State.applySet (x : ChangeSet) (s : State) : State :=
  ({ s with activeMap := applyRecords x.records s.activeMap }).raise .changeManager (.only x.id.port x.session)
    (.commitTaken x.id s.frame x.records.length (s.frame - x.due))

/-- A set that is not valid is rejected, with COMMIT_REJECTED when its session is open (R123). -/
def State.rejectSet (x : ChangeSet) (r : ChangeRecord) (s : State) : State :=
  if s.openWith x.id.port x.session then
    s.raise .changeManager (.only x.id.port x.session) (.commitRejected x.id s.frame r.dest)
  else s

/-- The take of boundary N, whose number the frame counter already holds: the head leaves the queue if it is due, and
is applied or rejected (R119, R121). -/
def State.take (s : State) : State :=
  match s.commitQueue with
  | [] => s
  | x :: rest =>
    if after x.due s.frame then s
    else
      let s1 := { s with commitQueue := rest }
      match firstFailing s1 x.id.port x.session x.records with
      | some r => s1.rejectSet x r
      | none => s1.applySet x

/-! ### Session end and soft reset (R125, R128) -/

/-- CHM_SESSION_END_NOTICE (R125). -/
def execChmSessionEndNotice (p : Port) (s : State) : Host.Outcome State Fault Refusal :=
  .next <|
    match takeFirst (fun n => n.port == p) s.chmNotices with
    | none => s
    | some (n, rest) =>
      { s with
        chmNotices := rest
        staging := s.staging.modify p fun t => if t.session = some n.session then Staging.initial else t
        commitQueue := s.commitQueue.filter fun x => !(x.id.port == p && x.session == n.session) }

/-- Every staging set emptied and every set removed from the queue; the sequence numbers are kept (R128). -/
def State.softResetChanges (s : State) : State := { s with staging := Tab.fill Staging.initial, commitQueue := [] }

end Sys2Proof.Machine
end

