-- ==== Sys2Proof/Machine/Messages.lean ====
section
/-! DEFINITION. The Message Unit (chapter 7, R129 to R152): receive assemblers, delivery, mailboxes, subscriptions,
transmit queues, and what it does with the notices of sessions and transmitters. -/

namespace Sys2Proof.Machine

/-! ### Messages on the link (R129) -/

/-- The wire bytes of a message: type, length, payload, CRC-8 (R129). -/
def wireBytes (type : Byte) (payload : List Byte) : List Byte :=
  let body := [type, BitVec.ofNat 8 payload.length] ++ payload
  body ++ [crc8 body]

/-- The named side state codes (R1). -/
inductive SideCode where
  | idle
  | start
  | cont
  | end1
  | end2
  | abort
  deriving DecidableEq, Repr

/-- What a receiver hands its assembler (R13). -/
inductive SideItem where
  | code (c : SideCode) (a b : Byte)
  | damaged
  | leaving
  deriving DecidableEq, Repr

/-! ### Assemblers (R130 to R134) -/

/-- An assembler after an item, and the wire bytes of the message the item completed, if any. -/
abbrev Assembled := Assembler × Option (List Byte)

/-- R131: an item at an IDLE assembler. -/
def Assembler.idleItem (i : SideItem) (a : Assembler) : Assembled :=
  match i with
  | .code .start x y => ({ a with buffer := some [x, y] }, none)
  | .code .cont _ _ | .code .end1 _ _ | .code .end2 _ _ => ({ a with stray := bump a.stray }, none)
  | .code .idle _ _ | .code .abort _ _ | .damaged | .leaving => (a, none)

/-- R132: bytes appended to the message in progress; `last` says that they complete it. -/
def Assembler.append (buf more : List Byte) (last : Bool) (a : Assembler) : Assembled :=
  if Config.wireMax < (buf ++ more).length then ({ a with buffer := none, overlong := bump a.overlong }, none)
  else if last then ({ a with buffer := none }, some (buf ++ more))
  else ({ a with buffer := some (buf ++ more) }, none)

/-- R132, R133: an item at an ASSEMBLING assembler. -/
def Assembler.assemblingItem (buf : List Byte) (i : SideItem) (a : Assembler) : Assembled :=
  match i with
  | .code .cont x y => a.append buf [x, y] false
  | .code .end1 x _ => a.append buf [x] true
  | .code .end2 x y => a.append buf [x, y] true
  | .code .start x y => ({ a with buffer := some [x, y], truncated := bump a.truncated }, none)
  | .code .idle _ _ => ({ a with buffer := none, truncated := bump a.truncated }, none)
  | .damaged => ({ a with buffer := none, damaged := bump a.damaged }, none)
  | .code .abort _ _ => ({ a with buffer := none, aborted := bump a.aborted }, none)
  | .leaving => ({ a with buffer := none }, none)

/-- R130: an item acts according to the assembler's state. -/
def Assembler.item (i : SideItem) (a : Assembler) : Assembled :=
  match a.buffer with
  | none => a.idleItem i
  | some buf => a.assemblingItem buf i

/-- R134: a completed message is good when its length byte and its CRC-8 agree with its wire bytes. -/
def goodMessage (wire : List Byte) : Bool :=
  (wire.getD 1 0).toNat + 3 == wire.length && crc8 wire.dropLast == wire.getLastD 0

/-- R134: the record of a good message. -/
def messageRecord (n : Link) (frame : FrameNo) (wire : List Byte) : MessageRecord :=
  { link := n, type := wire.getD 0 0, payload := (wire.drop 2).dropLast, arrival := frame }

/-! ### Delivery (R139 to R141) -/

/-- The session number of the entry that admits a message for a port, if one does: present, current, and with the
type in its range (R136, R139). -/
def admittingEntry (s : State) (p : Port) (m : MessageRecord) : Option SessionNo :=
  match (s.subscriptions.get m.link).get p with
  | none => none
  | some e =>
    if s.openWith p e.session ∧ e.low ≤ m.type ∧ m.type ≤ e.high then some e.session else none

/-- A mailbox emptied: no records, session number none, overflow flag clear (R140, R141). -/
def Mailbox.empty (m : Mailbox) : Mailbox := { m with records := [], session := none, overflowFlag := false }

/-- R140, R141: a copy made for session `number` arrives at a mailbox. -/
def Mailbox.place (number : SessionNo) (r : MessageRecord) (m : Mailbox) : Mailbox :=
  if m.records = [] then { m with records := [r], session := some number }
  else if m.session ≠ some number then { m.empty with records := [r], session := some number }
  else if m.records.length < Config.mailboxMax then { m with records := m.records ++ [r] }
  else { m with overflowCount := bump m.overflowCount, overflowFlag := true }

/-- R141: the copy is discarded at a full mailbox. -/
def Mailbox.isFullFor (number : SessionNo) (m : Mailbox) : Bool :=
  m.session == some number && Config.mailboxMax ≤ m.records.length

/-- What one port's mailbox becomes at a delivered message (R139, R140). -/
def mailboxAfter (s : State) (m : MessageRecord) (p : Port) : Mailbox :=
  match admittingEntry s p m with
  | none => s.mailboxes.get p
  | some number => (s.mailboxes.get p).place number m

/-- The MAILBOX_OVERFLOW one port's copy raises: a copy discarded with the overflow flag clear (R141). -/
def overflowEvent (s : State) (m : MessageRecord) (p : Port) : Option RaisedEvent :=
  let box := s.mailboxes.get p
  match admittingEntry s p m with
  | none => none
  | some number =>
    if box.isFullFor number ∧ !box.overflowFlag then
      some ⟨.messageUnit, .only p number, .mailboxOverflow (bump box.overflowCount)⟩
    else none

/-- R139: copies to every port whose entry admits the message, in one event. -/
def State.deliver (m : MessageRecord) (s : State) : State :=
  { s with
    mailboxes := Tab.tabulate (mailboxAfter s m)
    raised := s.raised ++ (List.finRange 4).filterMap (overflowEvent s m) }

/-- R134: a completed message is checked, and a good one delivered. -/
def State.completeMessage (n : Link) (wire : List Byte) (s : State) : State :=
  if goodMessage wire then s.deliver (messageRecord n s.frame wire)
  else s.onAssembler n fun a => { a with badMessage := bump a.badMessage }

/-- The assembler of link n takes one item, with all that the item completes (R130 to R134, R139). -/
def State.sideItem (n : Link) (i : SideItem) (s : State) : State :=
  let r := (s.assemblers.get n).item i
  let s1 := s.onAssembler n fun _ => r.1
  match r.2 with
  | none => s1
  | some wire => s1.completeMessage n wire

/-! ### Subscriptions (R137, R138) -/

/-- The port's entry for a link, if it is current (R136). -/
def currentEntry (s : State) (p : Port) (n : Link) : Option Subscription :=
  match (s.subscriptions.get n).get p with
  | none => none
  | some e => if s.openWith p e.session then some e else none

/-- The port's entry for a link written. -/
def State.setEntry (p : Port) (n : Link) (e : Option Subscription) (s : State) : State :=
  { s with subscriptions := s.subscriptions.modify n fun t => t.put p e }

/-- SUBSCRIBE (link, low, high) (R137). -/
def subscribeHandler (p : Port) (ps : List Byte) (s : State) : State × Reply :=
  match ps with
  | [a, low, high] =>
    match readLink a with
    | none => (s, badArg)
    | some n =>
      if high < low then (s, badArg)
      else
        (s.setEntry p n (some ⟨low, high, s.sessionNo p⟩),
          match currentEntry s p n with
          | some e => ok (onOff true ++ [e.low, e.high])
          | none => ok (onOff false))
  | _ => (s, badArg)

/-- UNSUBSCRIBE (link) (R138): a stale entry becomes absent too, but is answered NOT_FOUND. -/
def unsubscribeHandler (p : Port) (ps : List Byte) (s : State) : State × Reply :=
  match ps with
  | [a] =>
    match readLink a with
    | none => (s, badArg)
    | some n =>
      (s.setEntry p n none,
        match currentEntry s p n with
        | some e => ok [e.low, e.high]
        | none => refuse .notFound)
  | _ => (s, badArg)

/-! ### FETCH (R142) -/

/-- R142: a mailbox whose records are of another session is emptied first. -/
def Mailbox.fresh (number : SessionNo) (m : Mailbox) : Mailbox :=
  if m.session ≠ none ∧ m.session ≠ some number then m.empty else m

/-- The mailbox after a record is fetched; emptied, its session number is none. -/
def Mailbox.afterFetch (rest : List MessageRecord) (m : Mailbox) : Mailbox :=
  { m with records := rest, overflowFlag := false, session := if rest = [] then none else m.session }

/-- The data of FETCH's response (R142). -/
def MessageRecord.bytes (r : MessageRecord) (remaining : Nat) : List Byte :=
  small r.link ++ [r.type] ++ small r.payload.length ++ r.payload ++ bytes32 r.arrival ++ small remaining

/-- FETCH (R142). -/
def fetchHandler (p : Port) (s : State) : State × Reply :=
  let box := (s.mailboxes.get p).fresh (s.sessionNo p)
  match box.records with
  | [] => (s.onMailbox p fun _ => { box with overflowFlag := false }, refuse .empty)
  | r :: rest => (s.onMailbox p fun _ => box.afterFetch rest, ok (r.bytes rest.length))

/-! ### SEND (R146) -/

/-- The transmitter is WAITING or ACTIVE (R23). -/
def txEnabled (s : State) (n : Link) : Bool := (s.transmitters.get n).state != .off

/-- The transmitter holds a message in flight (R146). -/
def Sending.inFlight : Sending → Bool
  | .sending _ => true
  | .idle | .aborting => false

/-- SEND (link, type, payload) (R145, R146). -/
def sendHandler (p : Port) (ps : List Byte) (s : State) : State × Reply :=
  match ps with
  | a :: type :: payload =>
    match readLink a with
    | none => (s, badArg)
    | some n =>
      if 32 < payload.length then (s, badArg)
      else if !txEnabled s n then (s, refuse .linkDown)
      else if Config.txQueueMax ≤ (s.txQueues.get n).length then (s, refuse .full)
      else
        let id := s.messageIds.get p + 1
        let msg : QueuedMessage := ⟨p, s.sessionNo p, id, type, payload, wireBytes type payload⟩
        ({ s with
            messageIds := s.messageIds.put p id
            txQueues := s.txQueues.modify n fun q => q ++ [msg] },
          ok (bytes16 id ++ small (s.txQueues.get n).length ++ onOff (s.transmitters.get n).sending.inFlight))
  | _ => (s, badArg)

/-! ### Notices (R147, R148, R150) -/

/-- An event for a message's originator, when its session is open with the recorded number (R147, R148). -/
def originatorEvent (s : State) (p : Port) (number : SessionNo) (d : EventData) : List RaisedEvent :=
  if s.openWith p number then [⟨.messageUnit, .only p number, d⟩] else []

/-- COMPLETION_NOTICE: the oldest notice of transmitter n, when it is a completion (R147). -/
def execCompletionNotice (n : Link) (s : State) : Host.Outcome State Fault Refusal :=
  .next <|
    match s.txNotices.get n with
    | .completion p number id :: rest =>
      { s with
        txNotices := s.txNotices.put n rest
        raised := s.raised ++ originatorEvent s p number (.msgSent id) }
    | _ => s

/-- DISCARD_NOTICE: the oldest notice of transmitter n, when it is a discard (R148). -/
def execDiscardNotice (n : Link) (s : State) : Host.Outcome State Fault Refusal :=
  .next <|
    match s.txNotices.get n with
    | .discard p number id :: rest =>
      { s with
        txNotices := s.txNotices.put n rest
        raised := s.raised ++ originatorEvent s p number (.msgDiscarded id) }
    | _ => s

/-- DISABLE_NOTICE: the transmit queue of link n is flushed, with MSG_DISCARDED for each message in queue order
(R148). -/
def execDisableNotice (n : Link) (s : State) : Host.Outcome State Fault Refusal :=
  .next <|
    match s.txNotices.get n with
    | .disable :: rest =>
      { s with
        txNotices := s.txNotices.put n rest
        txQueues := s.txQueues.put n []
        raised := s.raised ++ (s.txQueues.get n).flatMap fun m =>
          originatorEvent s m.origin m.session (.msgDiscarded m.messageId) }
    | _ => s

/-- An entry of the ended session becomes absent (R150). -/
def keepEntry (number : SessionNo) (e : Option Subscription) : Option Subscription :=
  match e with
  | some x => if x.session = number then none else some x
  | none => none

/-- MSU_SESSION_END_NOTICE (R150). -/
def execMsuSessionEndNotice (p : Port) (s : State) : Host.Outcome State Fault Refusal :=
  .next <|
    match takeFirst (fun n => n.port == p) s.msuNotices with
    | none => s
    | some (n, rest) =>
      { s with
        msuNotices := rest
        subscriptions := s.subscriptions.map fun t => t.modify p (keepEntry n.session)
        mailboxes := s.mailboxes.modify p fun m => if m.session = some n.session then m.empty else m
        txQueues := s.txQueues.map fun q => q.filter fun m => !(m.origin == p && m.session == n.session) }

/-! ### Soft reset (R151) -/

/-- Every assembler IDLE, every entry absent, every mailbox and transmit queue empty, the seven counters cleared;
the message id numbers are kept (R151). -/
def State.softResetMessages (s : State) : State :=
  { s with
    assemblers := Tab.fill Assembler.initial
    subscriptions := Tab.fill (Tab.fill none)
    mailboxes := Tab.fill Mailbox.initial
    txQueues := Tab.fill [] }

end Sys2Proof.Machine
end

