-- ==== Sys2Proof/Machine/Selector.lean ====
section
/-! DEFINITION. The Reference Selector (chapter 3, R38 to R61): candidate rows, qualification, the target and the
selector's moves, the standing request, the word-clock monitor, and the REF commands. -/

namespace Sys2Proof.Machine

/-! ### Rows -/

namespace State

/-- Candidate row `r`. -/
def row (s : State) (r : RowIx) : CandidateRow := s.selector.table.get r

/-- Whether receiver `n` makes a LINK n row with this grade limit present (R39). -/
def linkPresent (s : State) (n : Link) (limit : Grade) : Bool :=
  let rx := s.receivers.get n
  rx.state == .inFrame && !rx.degraded && decide (rx.grade ≤ limit)

/-- Whether row `r` is present (R39). -/
def rowPresent (s : State) (r : RowIx) : Bool :=
  match (s.row r).source with
  | .empty => false
  | .link n => s.linkPresent n (s.row r).gradeLimit
  | .wclk => s.selector.monitor.present

/-- A row that any target computation may name: QUALIFIED and not locked out (R46). -/
def eligible (s : State) (r : RowIx) : Bool :=
  (s.row r).qualification == .qualified && !(s.row r).lockout

/-- The grade sent in every link frame (R53): with a LINK row, the received grade plus one, at most 6. -/
def transmittedGrade (s : State) : Grade :=
  match s.selector.state with
  | .freeRun => 7
  | .holdover => 6
  | .locking _ => 6
  | .locked r =>
    match (s.row r).source with
    | .link n => if (s.receivers.get n).grade.toNat + 1 < 6 then (s.receivers.get n).grade + 1 else 6
    | .wclk => s.selector.wclkGrade
    | .empty => 6

end State

/-- A row that becomes WAITING with its timer loaded, or QUALIFIED at once with a restore wait of 0 (R41). -/
def CandidateRow.load (wait : Nat) (now : Time) (r : CandidateRow) : CandidateRow :=
  if wait = 0 then { r with qualification := .qualified, restoreTimer := none }
  else { r with qualification := .waiting, restoreTimer := some (now + wait * Config.second) }

/-- A row's qualification follows its presence (R41). -/
def CandidateRow.follow (present : Bool) (wait : Nat) (now : Time) (r : CandidateRow) : CandidateRow :=
  match r.qualification, present with
  | .absent, true => r.load wait now
  | .waiting, false => { r with qualification := .absent, restoreTimer := none }
  | .qualified, false => { r with qualification := .absent, restoreTimer := none }
  | _, _ => r

/-! ### The selector's states (R45, R47, R50, R52) -/

namespace State

def raiseRefState (st : SelectorState) (row : Option RowIx) (why : RefReason) (s : State) : State :=
  s.raise .selector s.everyone (.refState st row why)

/-- Entering LOCKING(r): capture count 0, last row r, holdover timer stopped. -/
def enterLocking (r : RowIx) (why : RefReason) (s : State) : State :=
  (s.onSelector fun l => { l with
      state := .locking r, lastRow := some r, captureCount := 0, holdoverTimer := none, holdoverSince := none
    }).raiseRefState (.locking r) (some r) why

/-- Entering LOCKED(r) by capture (R48); the capture count is kept (log 22). -/
def enterLocked (r : RowIx) (s : State) : State :=
  (s.onSelector fun l => { l with state := .locked r, lastRow := some r }).raiseRefState (.locked r) (some r) .captured

/-- Entering HOLDOVER: the timer is loaded, or left stopped with a limit of 0 (R50). -/
def enterHoldover (why : RefReason) (s : State) : State :=
  (s.onSelector fun l => { l with
      state := .holdover
      holdoverSince := some s.now
      holdoverTimer := if l.holdoverLimit = 0 then none else some (s.now + l.holdoverLimit * Config.second)
    }).raiseRefState .holdover s.selector.lastRow why

/-- Entering FREE_RUN: no last row, timer stopped (R45, R50). -/
def enterFreeRun (s : State) : State :=
  (s.onSelector fun l => { l with
      state := .freeRun, lastRow := none, holdoverTimer := none, holdoverSince := none
    }).raiseRefState .freeRun none .holdoverExpired

/-! ### The standing request, requests leaving the slot, and the target (R46, R54, R58) -/

/-- The standing request: what the slot holds while its owner port's session is open with the number it was placed
under (R54, R83). A request whose session has been torn down stands no more, and every command that reads the slot
finds NONE (R59), though the slot holds it until its notice is taken or it is replaced (log 35). -/
def standing (s : State) : Option Request :=
  s.selector.request.filter fun q => s.openWith q.owner q.session

/-- The standing request leaves the slot for a cause other than its owner's command (R58). -/
def dropRequest (why : DropReason) (s : State) : State :=
  match s.selector.request with
  | none => s
  | some q =>
    (s.onSelector fun l => { l with request := none }).raise .selector s.everyone
      (.refRequestDropped q.kind q.row q.owner why)

/-- A standing MANUAL whose row is found not QUALIFIED is withdrawn (R46). -/
def withdrawUnqualified (s : State) : State :=
  match s.standing with
  | some q =>
    if q.kind = .manual ∧ (s.row q.row).qualification ≠ .qualified then s.dropRequest .notQualified else s
  | none => s

/-- The lowest-numbered row that is QUALIFIED and not locked out (R46). -/
def bestRow (s : State) : Option RowIx := (List.finRange 8).find? s.eligible

/-- The target with no standing request (R46). -/
def ownTarget (s : State) : Option RowIx :=
  match s.selector.revertive, s.selector.state.row with
  | false, some r => if s.eligible r then some r else s.bestRow
  | _, _ => s.bestRow

/-- The target, once an unqualified MANUAL has been withdrawn (R46). -/
def target (s : State) : Option RowIx :=
  match s.standing with
  | some q =>
    match q.kind with
    | .force => if s.rowPresent q.row then some q.row else none
    | .manual => some q.row
  | none => s.ownTarget

/-- The selector's move on the result of a recomputation (R47). -/
def moveTo (t : Option RowIx) (s : State) : State :=
  match s.selector.state.row, t with
  | none, none => s
  | none, some k => s.enterLocking k .selected
  | some _, none => s.enterHoldover .targetLost
  | some r, some k => if r = k then s else s.enterLocking k .selected

/-- A recomputation of the target with its move (R45 to R47). -/
def recompute (s : State) : State :=
  let s1 := s.withdrawUnqualified
  s1.moveTo s1.target

/-- The recomputation after a capture failure: whatever state it leads to, that state is entered anew with reason
CAPTURE_FAIL (R48, R52). -/
def recomputeFailed (s : State) : State :=
  let s1 := s.withdrawUnqualified
  match s1.target with
  | none => s1.enterHoldover .captureFail
  | some k => s1.enterLocking k .captureFail

/-- The candidate table with every row following its presence (R39, R41). -/
def followedTable (s : State) : Tab 8 CandidateRow :=
  Tab.tabulate fun r => (s.row r).follow (s.rowPresent r) s.selector.restoreWait s.now

/-- A receiver or the word-clock monitor has reported a change: presence is derived anew, and the target is
recomputed once if a row's qualification changed (R39, R41, R45, log 26). -/
def reportSources (s : State) : State :=
  if s.followedTable = s.selector.table then s
  else (s.onSelector fun l => { l with table := s.followedTable }).recompute

/-- A capture failure on row r (R48). -/
def captureFailure (r : RowIx) (s : State) : State :=
  (s.onRow r fun w => w.load s.selector.restoreWait s.now).recomputeFailed

end State

/-! ### Timers (R41, R50) -/

/-- RESTORE_TIMER_EXPIRY: a WAITING row's timer runs out (R41). -/
def execRestoreTimerExpiry (r : RowIx) (s : State) : Host.Outcome State Fault Refusal :=
  .next <|
    match (s.row r).qualification, (s.row r).restoreTimer with
    | .waiting, some d =>
      ((s.advanceTo d).onRow r fun w => { w with qualification := .qualified, restoreTimer := none }).recompute
    | _, _ => s

/-- HOLDOVER_TIMER_EXPIRY: the selector enters FREE_RUN (R50). -/
def execHoldoverTimerExpiry (s : State) : Host.Outcome State Fault Refusal :=
  .next <|
    match s.selector.state, s.selector.holdoverTimer with
    | .holdover, some d => (s.advanceTo d).enterFreeRun
    | _, _ => s

/-! ### The word-clock monitor (R40) -/

/-- A good interval at the monitor. -/
def WclkMonitor.good (m : WclkMonitor) : WclkMonitor :=
  if m.present then { m with badRun := 0 }
  else if m.goodRun + 1 < Config.wclkGoodRun then { m with goodRun := m.goodRun + 1 }
  else { m with present := true, goodRun := 0, badRun := 0 }

/-- A bad or missing interval at the monitor. -/
def WclkMonitor.bad (m : WclkMonitor) : WclkMonitor :=
  if !m.present then { m with goodRun := 0 }
  else if m.badRun + 1 < Config.wclkBadRun then { m with badRun := m.badRun + 1 }
  else { m with present := false, goodRun := 0, badRun := 0 }

/-- An interval is good when it lasts 0.995 to 1.005 of the output frame length in effect. -/
def goodInterval (frameLength interval : Time) : Bool :=
  199 * frameLength ≤ 200 * interval ∧ 200 * interval ≤ 201 * frameLength

/-- The monitor at a rising edge: before the first one nothing is timed. -/
def WclkMonitor.edge (now frameLength : Time) (m : WclkMonitor) : WclkMonitor :=
  let m1 := match m.timedFrom with
    | none => m
    | some t => if goodInterval frameLength (now - t) then m.good else m.bad
  { m1 with timedFrom := some now, clock := m.clock.event now }

/-- WCLK_RISING_EDGE (R40; a reference event of WCLK, R35). -/
def execWclkRisingEdge (elapsed : Time) (s : State) : Host.Outcome State Fault Refusal :=
  let s1 := s.advance elapsed
  .next (s1.onSelector fun l =>
    { l with monitor := l.monitor.edge s1.now s1.timing.frameLength }).reportSources

/-- WCLK_MISSING_INTERVAL: 1.005 frame lengths with no rising edge; timing restarts from that moment (R40). -/
def execWclkMissingInterval (s : State) : Host.Outcome State Fault Refusal :=
  .next <|
    match s.selector.monitor.timedFrom with
    | none => s
    | some t =>
      let moment := t + 201 * s.timing.frameLength / 200
      ((s.advanceTo moment).onSelector fun l =>
        { l with monitor := { l.monitor.bad with timedFrom := some moment } }).reportSources

/-! ### Requests that end with their session (R59) -/

/-- Port p is barred from an event. -/
def RaisedEvent.bar (p : Port) (e : RaisedEvent) : RaisedEvent :=
  match e.audience with
  | .all barred => { e with audience := .all (p :: barred) }
  | .only _ _ => e

/-- An operation whose events go to the ports other than p alone, as R183 gives for OWNER_ENDED (log 30). -/
def State.hiddenFrom (p : Port) (f : State → State) (s : State) : State :=
  let t := f { s with raised := [] }
  { t with raised := s.raised ++ t.raised.map (RaisedEvent.bar p) }

/-- A command takes the request out of the slot: a standing one for the reason given, one whose session has ended as
its notice would, with OWNER_ENDED to the other ports alone (R58, R59, R183, log 35). -/
def State.withdraw (why : DropReason) (s : State) : State :=
  match s.selector.request with
  | none => s
  | some q =>
    if s.openWith q.owner q.session then s.dropRequest why
    else s.hiddenFrom q.owner fun u => u.dropRequest .ownerEnded

/-! ### Configuration commands (R42 to R44) -/

/-- REF_TABLE (row, source, grade limit) (R42). The event of a withdrawal is raised whoever issues the command, the
request's owner too: the model's choice (log 32). A request of an ended session that names the row leaves the slot too
(log 35). -/
def refTableHandler (ps : List Byte) (s : State) : State × Reply :=
  match ps with
  | [a, b, c] =>
    match readRow a, readRefSource b, readGrade c with
    | some r, some src, some limit =>
      let s1 := s.onRow r fun w =>
        { w with source := src, gradeLimit := limit, qualification := .absent, restoreTimer := none }
      let s2 := if (s1.selector.request.map (·.row)) = some r then s1.withdraw .rowEdited else s1
      let s3 := s2.onRow r fun w => w.follow (s2.rowPresent r) s2.selector.restoreWait s2.now
      (s3.recompute, ok [])
    | _, _, _ => (s, badArg)
  | _ => (s, badArg)

/-- REF_LOCKOUT (row, on or off) (R43). The event of a withdrawal is raised whoever issues the command, the request's
owner too: the model's choice (log 32). A request of an ended session that names the row leaves the slot too (log 35). -/
def refLockoutHandler (ps : List Byte) (s : State) : State × Reply :=
  match ps with
  | [a, b] =>
    match readRow a, readOnOff b with
    | some r, some v =>
      if (s.row r).lockout = v then (s, ok [])
      else
        let s1 := s.onRow r fun w => { w with lockout := v }
        let s2 := if v ∧ (s1.selector.request.map (·.row)) = some r then s1.withdraw .lockedOut else s1
        (s2.recompute, ok [])
    | _, _ => (s, badArg)
  | _ => (s, badArg)

/-- An optional one-byte field: read when its presence bit is set (R159). -/
def readOptional {α : Type} (present : Bool) (read : Byte → Option α) (ps : List Byte) :
    Option (Option α × List Byte) :=
  if present then
    match ps with
    | b :: rest => (read b).map fun v => (some v, rest)
    | [] => none
  else some (none, ps)

/-- An optional two-byte number (R159). -/
def readOptional16 {α : Type} (present : Bool) (read : BitVec 16 → Option α) (ps : List Byte) :
    Option (Option α × List Byte) :=
  if present then
    match ps with
    | a :: b :: rest => (read (word16 a b)).map fun v => (some v, rest)
    | _ => none
  else some (none, ps)

/-- A number within a limit. -/
def readUpTo {n : Nat} (limit : Nat) (w : BitVec n) : Option Nat := if w.toNat ≤ limit then some w.toNat else none

/-- The four optional fields of REF_MODE: revertive, restore wait, holdover limit, WCLK grade (R44). -/
structure ModeFields where
  revertive     : Option Bool
  restoreWait   : Option Nat
  holdoverLimit : Option Nat
  wclkGrade     : Option Grade
  deriving DecidableEq, Repr

/-- REF_MODE's parameters: a presence byte, then the fields its bits name, and nothing else (R44, R159). -/
def readMode (ps : List Byte) : Option ModeFields :=
  match ps with
  | [] => none
  | b :: rest =>
    if b = 0 ∨ 16 ≤ b.toNat then none
    else
      (readOptional (b.getLsbD 0) readOnOff rest).bind fun (rev, r1) =>
      (readOptional16 (b.getLsbD 1) (readUpTo 300) r1).bind fun (wait, r2) =>
      (readOptional16 (b.getLsbD 2) (readUpTo 3600) r2).bind fun (limit, r3) =>
      (readOptional (b.getLsbD 3) (fun g => if g.toNat ≤ 6 then some (g.setWidth 3) else none) r3).bind
        fun (grade, r4) => if r4 = [] then some ⟨rev, wait, limit, grade⟩ else none

/-- A new holdover limit acts on the holdover in progress (R50). -/
def State.applyHoldoverLimit (limit : Nat) (s : State) : State :=
  if s.selector.state = .holdover then
    if limit = 0 then s.onSelector fun l => { l with holdoverTimer := none }
    else
      let start := s.selector.holdoverSince.getD s.now
      if start + limit * Config.second ≤ s.now then s.enterFreeRun
      else s.onSelector fun l => { l with holdoverTimer := some (start + limit * Config.second) }
  else s

/-- REF_MODE (R44): the present fields replace their settings together. -/
def refModeHandler (ps : List Byte) (s : State) : State × Reply :=
  match readMode ps with
  | none => (s, badArg)
  | some m =>
    let old := s.selector
    let s1 := s.onSelector fun l => { l with
      revertive := m.revertive.getD l.revertive
      restoreWait := m.restoreWait.getD l.restoreWait
      holdoverLimit := m.holdoverLimit.getD l.holdoverLimit
      wclkGrade := m.wclkGrade.getD l.wclkGrade }
    let s2 := if s1.selector.holdoverLimit = old.holdoverLimit then s1
      else s1.applyHoldoverLimit s1.selector.holdoverLimit
    let s3 := if s2.selector.revertive = old.revertive then s2 else s2.recompute
    (s3, ok [])

/-! ### The standing request (R55 to R57) -/

/-- The slot as a response carries it: kind, row, owner port (R55, R60, log 17). -/
def requestBytes (q : Option Request) : List Byte :=
  match q with
  | some r => small r.kind.code ++ rowByte (some r.row) ++ portByte (some r.owner)
  | none => small 0 ++ rowByte none ++ portByte none

/-- The slot and the selector state (R55, log 17). -/
def slotReply (s : State) : Reply :=
  ok (requestBytes s.standing ++ small s.selector.state.code ++ rowByte s.selector.state.row)

/-- A request of port p takes the slot: it replaces p's own standing request silently, and a request of another port is
dropped with SUPERSEDED (R55, R56). A request of an ended session, p's own earlier one too, leaves the slot with
OWNER_ENDED, which its notice then raises no more: the model's choice (log 35). -/
def placeRequest (kind : RequestKind) (r : RowIx) (p : Port) (s : State) : State × Reply :=
  let s1 := if s.standing.map (·.owner) = some p then s else s.withdraw .superseded
  let s2 := (s1.onSelector fun l => { l with request := some ⟨kind, r, p, s.sessionNo p⟩ }).recompute
  (s2, slotReply s2)

/-- REF_FORCE (row) (R55); after a teardown of the owner it finds NONE (R59). -/
def refForceHandler (p : Port) (ps : List Byte) (s : State) : State × Reply :=
  match ps with
  | [a] =>
    match readRow a with
    | none => (s, badArg)
    | some r =>
      if (s.row r).source = .empty then (s, badArg)
      else if (s.row r).lockout then (s, refuse .lockedOut)
      else match s.standing with
        | some q =>
          if q.kind = .force ∧ q.owner ≠ p ∧ s.precedence p < s.precedence q.owner then (s, heldByPort q.owner)
          else placeRequest .force r p s
        | none => placeRequest .force r p s
  | _ => (s, badArg)

/-- REF_MANUAL (row) (R56); after a teardown of the owner it finds NONE (R59). -/
def refManualHandler (p : Port) (ps : List Byte) (s : State) : State × Reply :=
  match ps with
  | [a] =>
    match readRow a with
    | none => (s, badArg)
    | some r =>
      if (s.row r).source = .empty then (s, badArg)
      else if (s.row r).qualification ≠ .qualified then (s, refuse .notQualified)
      else if (s.row r).lockout then (s, refuse .lockedOut)
      else match s.standing with
        | some q =>
          if q.kind = .force then (s, heldByPort q.owner)
          else if q.owner ≠ p ∧ s.precedence p < s.precedence q.owner then (s, heldByPort q.owner)
          else placeRequest .manual r p s
        | none => placeRequest .manual r p s
  | _ => (s, badArg)

/-- REF_CLEAR (R57); after a teardown of the owner it finds NONE and has no effect, the withdrawal being left to the
notice (R59, log 35). HELD_BY carries the owner port alone (R170): that R57's last sentence, the slot and the selector
state in the response, does not reach this refusal is the model's choice (log 36). -/
def refClearHandler (p : Port) (s : State) : State × Reply :=
  match s.standing with
  | none => (s, slotReply s)
  | some q =>
    if q.owner = p then
      let s1 := (s.onSelector fun l => { l with request := none }).recompute
      (s1, slotReply s1)
    else if s.precedence q.owner ≤ s.precedence p then
      let s1 := (s.dropRequest .cleared).recompute
      (s1, slotReply s1)
    else (s, heldByPort q.owner)

/-- RSL_SESSION_END_NOTICE: a request of the ended session is withdrawn with OWNER_ENDED, which goes to the other ports
alone, and the target is recomputed; a REF_STATE of that goes to a new session of p as to any other (R59, R183,
log 30). -/
def execRslSessionEndNotice (p : Port) (s : State) : Host.Outcome State Fault Refusal :=
  .next <|
    match takeFirst (fun n => n.port == p) s.rslNotices with
    | none => s
    | some (n, rest) =>
      let s1 := { s with rslNotices := rest }
      match s1.selector.request with
      | some q =>
        if q.owner = p ∧ q.session = n.session then
          (s1.hiddenFrom p fun u => u.dropRequest .ownerEnded).recompute
        else s1
      | none => s1

/-- Soft reset at the selector: the request is withdrawn without event and the target recomputed (R61). With revertive
off the recomputation is that of R46, which keeps an eligible current row: the model's choice (log 33). -/
def State.softResetSelector (s : State) : State :=
  (s.onSelector fun l => { l with request := none }).recompute

/-! ### REF_STATUS (R60) -/

/-- The holdover time remaining: unlimited in HOLDOVER with a stopped timer, stopped elsewhere (R60, R159). -/
def holdoverRemaining (s : State) : List Byte :=
  match s.selector.holdoverTimer, s.selector.state with
  | some d, _ => timeRemaining s.now (some d)
  | none, .holdover => bytes32 0xFFFFFFFE
  | none, _ => timeRemaining s.now none

/-- One row as REF_STATUS gives it. -/
def rowStatus (s : State) (r : RowIx) : List Byte :=
  refSourceByte (s.row r).source ++ gradeByte (s.row r).gradeLimit ++ onOff (s.row r).lockout
    ++ onOff (s.rowPresent r) ++ small (s.row r).qualification.code ++ timeRemaining s.now (s.row r).restoreTimer

/-- REF_STATUS returns the reference state of the part and changes none (R60). The slot it shows is the standing
request (R54). -/
def refStatusHandler (s : State) : State × Reply :=
  let l := s.selector
  (s, ok (
    small l.state.code ++ rowByte l.state.row ++ rowByte l.lastRow ++ small l.captureCount ++ holdoverRemaining s
      ++ bytes16 l.phase
      ++ gradeByte s.transmittedGrade ++ bytes32 s.frame ++ onOff s.timing.wclkEnable ++ onOff l.monitor.present
      ++ onOff l.revertive ++ nat16 l.restoreWait ++ nat16 l.holdoverLimit ++ gradeByte l.wclkGrade
      ++ (List.finRange 8).flatMap (rowStatus s)
      ++ requestBytes s.standing))

end Sys2Proof.Machine
end

