-- ==== Sys2Proof/Machine/Stores.lean ====
section
/-! DEFINITION. The elastic stores (R14 to R18). -/

namespace Sys2Proof.Machine

/-- A slip at a store: its SLIP event if the window count is 0, which is then set (R18). -/
structure Slipped where
  store : Store
  event : Bool
  deriving DecidableEq, Repr

/-- The window after a slip, and whether SLIP is raised (R18). -/
def Store.slip (e : Store) : Slipped :=
  if e.slipWindow = 0 then ⟨{ e with slipWindow := Config.slipWindow }, true⟩ else ⟨e, false⟩

/-- The receiver enters IN_FRAME: an empty list, no last read frame, CENTERING (R14). -/
def Store.center (e : Store) : Store := { e with state := .centering, frames := [], lastRead := none }

/-- The receiver leaves IN_FRAME: an empty list, no last read frame, IDLE (R14). -/
def Store.release (e : Store) : Store := { e with state := .idle, frames := [], lastRead := none }

/-- A frame is appended; a full store first drops its oldest frame, a drop slip (R15). -/
def Store.append (f : Samples) (e : Store) : Slipped :=
  if e.frames.length < Config.storeDepth then ⟨{ e with frames := e.frames ++ [f] }, false⟩
  else Store.slip { e with frames := e.frames.tail ++ [f], dropSlips := bump e.dropSlips }

/-- The slip window counts down at a boundary, before the read (R18). -/
def Store.countdown (e : Store) : Store := { e with slipWindow := e.slipWindow - 1 }

/-- The read of a boundary (R16). -/
def Store.read (e : Store) : Slipped :=
  match e.state, e.frames with
  | .idle, _ => ⟨{ e with current := none }, false⟩
  | .centering, f :: g :: rest =>
    ⟨{ e with state := .running, frames := g :: rest, lastRead := some f, current := some f }, false⟩
  | .centering, _ => ⟨{ e with current := none }, false⟩
  | .running, f :: rest => ⟨{ e with frames := rest, lastRead := some f, current := some f }, false⟩
  | .running, [] => Store.slip { e with current := e.lastRead, repeatSlips := bump e.repeatSlips }

/-- A store's part of a boundary, in its order (R16). -/
def Store.boundary (e : Store) : Slipped := e.countdown.read

/-- The receiver appends a frame to the store of link n (R15, R18). -/
def State.appendFrame (n : Link) (f : Samples) (s : State) : State :=
  let r := (s.stores.get n).append f
  let s1 := s.onStore n fun _ => r.store
  if r.event then s1.raise (.store n) s.everyone (.slip n .dropped) else s1

/-- Every store is read (R16); the SLIP events of repeat slips, by link (R18, log 18). -/
def State.readStores (s : State) : State :=
  { s with
    stores := s.stores.map fun e => e.boundary.store
    raised := s.raised ++ (List.finRange 16).filterMap fun n =>
      if (s.stores.get n).boundary.event then some ⟨.store n, s.everyone, .slip n .repeated⟩ else none }

/-- A store's counters cleared; all else kept (R22, R193). -/
def Store.clearCounters (e : Store) : Store := { e with dropSlips := 0, repeatSlips := 0 }

end Sys2Proof.Machine
end

