-- ==== Sys2Proof/Machine/Receivers.lean ====
section
/-! DEFINITION. The link receivers (R1 to R13, R19, R20): the activity monitor, frame alignment, classification of
frames, the damage window, concealment, and LINK_STATUS and READ_FRAME. -/

namespace Sys2Proof.Machine

/-! ### The link frame (R1, R2) -/

namespace LinkFrame

/-- Byte `k` of the frame. -/
def byte (f : LinkFrame) (k : Fin 54) : Byte := Tab.get f k

/-- The alignment word $D2 $4B is present. -/
def aligned (f : LinkFrame) : Bool := byte f 0 == 0xD2 && byte f 1 == 0x4B

/-- The CRC-8 over bytes 0 to 52 equals byte 53 (R2). -/
def crcGood (f : LinkFrame) : Bool := crc8 (Tab.cells f).dropLast == byte f 53

/-- Flags bits 0 to 2. -/
def grade (f : LinkFrame) : Grade := (byte f 2).extractLsb' 0 3

/-- Flags bits 3 to 5; bits 6 and 7 are ignored (R1). -/
def sideCode (f : LinkFrame) : BitVec 3 := (byte f 2).extractLsb' 3 3

/-- Slot s occupies bytes 3 + 3s to 5 + 3s (R1). -/
def slot (f : LinkFrame) (i : Slot) : Sample :=
  word24 (byte f ⟨3 + 3 * i.val, by omega⟩) (byte f ⟨4 + 3 * i.val, by omega⟩) (byte f ⟨5 + 3 * i.val, by omega⟩)

/-- The sixteen samples. -/
def samples (f : LinkFrame) : Samples := Tab.tabulate (slot f)

/-- Side byte A. -/
def sideA (f : LinkFrame) : Byte := byte f 51

/-- Side byte B. -/
def sideB (f : LinkFrame) : Byte := byte f 52

/-- The last good frame this frame becomes when it is good (R8). -/
def record (f : LinkFrame) (arrival : FrameNo) : GoodFrame :=
  ⟨samples f, grade f, sideCode f, sideA f, sideB f, arrival⟩

end LinkFrame

/-- The side state a code names (R1); codes 6 and 7 have no name. -/
def sideCodeOf (c : BitVec 3) : Option SideCode :=
  if c = 0 then some .idle
  else if c = 1 then some .start
  else if c = 2 then some .cont
  else if c = 3 then some .end1
  else if c = 4 then some .end2
  else if c = 5 then some .abort
  else none

/-- The side item of a good frame: a frame with code 6 or 7 hands ABORT (R13). -/
def goodItem (f : LinkFrame) : SideItem :=
  match sideCodeOf (LinkFrame.sideCode f) with
  | some c => .code c (LinkFrame.sideA f) (LinkFrame.sideB f)
  | none => .code .abort (LinkFrame.sideA f) (LinkFrame.sideB f)

/-! ### One receiver -/

namespace Receiver

/-- A reference event at `now` (R35). -/
def referenceEvent (now : Time) (r : Receiver) : Receiver := { r with clock := r.clock.event now }

/-- What leaving IN_FRAME clears: DEGRADED, the grade, the window in progress (R7, R10, R12). -/
def clearInFrame (r : Receiver) : Receiver :=
  { r with degraded := false, grade := 7, windowFrames := 0, windowDamage := 0 }

/-- Entering a state without frame position or candidate (R4, R5, R7, log 20). -/
def leave (target : RxState) (r : Receiver) : Receiver :=
  let r1 := if r.state = .inFrame then r.clearInFrame else r
  { r1 with state := target, position := none }

/-- Entering DISABLED (R3). -/
def disable (r : Receiver) : Receiver :=
  { r.clearInFrame with state := .disabled, position := none, qualifying := none, lastGood := none }

/-- Entering IN_FRAME: no misses, a fresh damage window (R7, R10). -/
def enterInFrame (r : Receiver) : Receiver :=
  { r with state := .inFrame, missCount := 0, windowFrames := 0, windowDamage := 0 }

/-- One frame of the damage window, damaged or not (R10), with the tests of R11: DEGRADED is set when the damage
count reaches 16, and cleared at the end of a complete window with fewer than 2. -/
def window (bad : Bool) (r : Receiver) : Receiver :=
  let damage := if bad then r.windowDamage + 1 else r.windowDamage
  let set := r.degraded || Config.degradedSet ≤ damage
  if r.windowFrames + 1 < Config.damageWindow then
    { r with windowFrames := r.windowFrames + 1, windowDamage := damage, degraded := set }
  else
    { r with windowFrames := 0, windowDamage := 0
             degraded := if damage < Config.degradedClear then false else set }

/-- A good frame (R7, R8, R12, R13). -/
def takeGood (f : LinkFrame) (frame : FrameNo) (r : Receiver) : Receiver :=
  { r with
    missCount := 0
    lastGood := some (LinkFrame.record f frame)
    grade := LinkFrame.grade f
    counters := { r.counters with
      badSideCode := if (sideCodeOf (LinkFrame.sideCode f)).isNone then bump r.counters.badSideCode
        else r.counters.badSideCode } }

/-- A damaged frame (R7, R8). -/
def takeDamaged (r : Receiver) : Receiver :=
  { r with missCount := 0, counters := { r.counters with damaged := bump r.counters.damaged } }

/-- A misaligned frame (R7, R8). -/
def takeMisaligned (r : Receiver) : Receiver :=
  { r with missCount := r.missCount + 1, counters := { r.counters with misaligned := bump r.counters.misaligned } }

/-- The five counters cleared, all else kept (R22, R193). -/
def clearCounters (r : Receiver) : Receiver := { r with counters := ⟨0, 0, 0, 0, 0⟩ }

/-- The slots a concealed frame repeats (R8); silence where there is no last good frame, which does not occur in
IN_FRAME. -/
def concealed (r : Receiver) : Samples :=
  match r.lastGood with
  | some g => g.slots
  | none => Tab.fill 0

end Receiver

/-! ### The receivers in the part -/

namespace State

/-- LINK_STATE (link, state, DEGRADED), as both stand now (R9). -/
def raiseLinkState (n : Link) (s : State) : State :=
  s.raise (.receiver n) s.everyone (.linkState n (s.receivers.get n).state (s.receivers.get n).degraded)

/-- The receiver enters a state without a frame position; if it was IN_FRAME the store goes IDLE and the assembler
takes the leaving notice (R7, R13, R14). One LINK_STATE for the whole change (R9). -/
def leaveTo (n : Link) (f : Receiver → Receiver) (s : State) : State :=
  let was := (s.receivers.get n).state
  let s1 := (s.onReceiver n f).raiseLinkState n
  if was = .inFrame then (s1.onStore n Store.release).sideItem n .leaving else s1

/-- The damage window takes one frame; a change of DEGRADED raises LINK_STATE (R10, R11). -/
def windowFrame (n : Link) (bad : Bool) (s : State) : State :=
  let s1 := s.onReceiver n (Receiver.window bad)
  if (s1.receivers.get n).degraded = (s.receivers.get n).degraded then s1 else s1.raiseLinkState n

/-- A good frame taken in IN_FRAME: the receiver, the window, the side item, the store (R7, R10, R13, R15). -/
def takeGoodFrame (n : Link) (f : LinkFrame) (s : State) : State :=
  (((s.onReceiver n (Receiver.takeGood f s.frame)).windowFrame n false).sideItem n (goodItem f)).appendFrame n
    (LinkFrame.samples f)

/-- A concealed frame: the repaired samples go to the store, a damaged marker to the assembler (R8, R13). -/
def takeConcealed (n : Link) (f : Receiver → Receiver) (s : State) : State :=
  (((s.onReceiver n f).windowFrame n true).sideItem n .damaged).appendFrame n (s.receivers.get n).concealed

end State

/-! ### Line activity (R4) -/

/-- QUALIFICATION_START: in NO_SIGNAL the first transition starts a period. -/
def execQualificationStart (n : Link) (elapsed : Time) (s : State) : Host.Outcome State Fault Refusal :=
  let s1 := s.advance elapsed
  .next <|
    if (s1.receivers.get n).state = .noSignal ∧ (s1.receivers.get n).qualifying = none then
      s1.onReceiver n fun r => { r with qualifying := some s1.now }
    else s1

/-- QUALIFICATION_ABANDONED: 10 µs without a transition abandon the period. -/
def execQualificationAbandoned (n : Link) (elapsed : Time) (s : State) : Host.Outcome State Fault Refusal :=
  let s1 := s.advance elapsed
  .next (s1.onReceiver n fun r => { r with qualifying := none })

/-- QUALIFICATION_COMPLETE: a full period moves the receiver from NO_SIGNAL to SEARCH. -/
def execQualificationComplete (n : Link) (s : State) : Host.Outcome State Fault Refusal :=
  .next <|
    match (s.receivers.get n).state, (s.receivers.get n).qualifying with
    | .noSignal, some t =>
      ((s.advanceTo (t + Config.quarterMillisecond)).onReceiver n fun r =>
        { r with state := .search, qualifying := none }).raiseLinkState n
    | _, _ => s

/-- LOSS_OF_SIGNAL: 0.25 ms with no transition in SEARCH, CONFIRM or IN_FRAME. -/
def execLossOfSignal (n : Link) (elapsed : Time) (s : State) : Host.Outcome State Fault Refusal :=
  let s1 := s.advance elapsed
  .next <|
    match (s1.receivers.get n).state with
    | .search | .confirm | .inFrame =>
      (s1.leaveTo n fun r =>
        { r.leave .noSignal with
          counters := { r.counters with lossOfSignal := bump r.counters.lossOfSignal } }).reportSources
    | .disabled | .noSignal => s1

/-! ### Alignment and frames (R5 to R8) -/

/-- ALIGNMENT_PATTERN_FOUND: a candidate position in SEARCH (R5). -/
def execAlignmentPatternFound (n : Link) (pos : BitPos) (elapsed : Time) (s : State) :
    Host.Outcome State Fault Refusal :=
  let s1 := s.advance elapsed
  .next <|
    if (s1.receivers.get n).state = .search then
      (s1.onReceiver n fun r => { r with state := .confirm, position := some pos, confirmCount := 0 }).raiseLinkState n
    else s1

/-- CONFIRM_FRAME_ARRIVAL (R6): the third confirming frame enters IN_FRAME and is its first frame. That arrival is
a reference event of the link (log 13). -/
def execConfirmFrameArrival (n : Link) (pos : BitPos) (f : LinkFrame) (elapsed : Time) (s : State) :
    Host.Outcome State Fault Refusal :=
  let s1 := s.advance elapsed
  let r := s1.receivers.get n
  .next <|
    if r.state = .confirm ∧ r.position = some pos then
      if LinkFrame.aligned f ∧ LinkFrame.crcGood f then
        if r.confirmCount + 1 < 3 then s1.onReceiver n fun r => { r with confirmCount := r.confirmCount + 1 }
        else
          ((((s1.onReceiver n fun r =>
              { r.enterInFrame.referenceEvent s1.now with confirmCount := 3 }).raiseLinkState n).onStore n
            Store.center).takeGoodFrame n f).reportSources
      else (s1.onReceiver n fun r => { r with state := .search, position := none }).raiseLinkState n
    else s1

/-- FRAME_ARRIVAL (R7): a frame at the held position in IN_FRAME is a reference event of the link whatever its
class (R35), and is classified. -/
def execFrameArrival (n : Link) (pos : BitPos) (f : LinkFrame) (elapsed : Time) (s : State) :
    Host.Outcome State Fault Refusal :=
  let s1 := s.advance elapsed
  let r := s1.receivers.get n
  .next <|
    if r.state = .inFrame ∧ r.position = some pos then
      let s2 := s1.onReceiver n (Receiver.referenceEvent s1.now)
      (if LinkFrame.aligned f then
        if LinkFrame.crcGood f then s2.takeGoodFrame n f else s2.takeConcealed n Receiver.takeDamaged
      else if r.missCount + 1 < 4 then s2.takeConcealed n Receiver.takeMisaligned
      else
        s2.leaveTo n fun r =>
          { r.takeMisaligned.leave .search with
            counters := { r.takeMisaligned.counters with lossOfFrame := bump r.counters.lossOfFrame } }).reportSources
    else s1

/-! ### Enable (R3) -/

/-- The receive part of LINK_CONFIG (R3). -/
def State.configReceiver (n : Link) (on : Bool) (s : State) : State :=
  match (s.receivers.get n).state, on with
  | .disabled, true => (s.onReceiver n fun r => { r with state := .noSignal, qualifying := none }).raiseLinkState n
  | .disabled, false => s
  | _, true => s
  | _, false => (s.leaveTo n Receiver.disable).reportSources

/-! ### Reading a link (R19, R20) -/

/-- LINK_STATUS (link) (R19). -/
def linkStatusHandler (ps : List Byte) (s : State) : State × Reply :=
  match ps with
  | [a] =>
    match readLink a with
    | none => (s, badArg)
    | some n =>
      let r := s.receivers.get n
      let e := s.stores.get n
      (s, ok (small r.state.code ++ onOff r.degraded ++ gradeByte r.grade ++ onOff (txEnabled s n)
        ++ small e.state.code ++ small e.frames.length ++ nat16 r.windowFrames ++ nat16 r.windowDamage
        ++ nat16 e.slipWindow))
  | _ => (s, badArg)

/-- READ_FRAME (link) (R20). -/
def readFrameHandler (ps : List Byte) (s : State) : State × Reply :=
  match ps with
  | [a] =>
    match readLink a with
    | none => (s, badArg)
    | some n =>
      match (s.receivers.get n).lastGood with
      | none => (s, refuse .linkDown)
      | some g =>
        (s, ok (small (s.receivers.get n).state.code ++ bytes32 g.arrival ++ gradeByte g.grade
          ++ [g.sideCode.setWidth 8] ++ [g.sideA, g.sideB] ++ g.slots.cells.flatMap sampleBytes))
  | _ => (s, badArg)

end Sys2Proof.Machine
end

