-- ==== Sys2Proof/Machine/Events.lean ====
section
/-! DEFINITION. The Event Unit (chapter 9, R178 to R194): which ports receive an event, queuing, EVENTS_LOST, removal
of records, the event mask, and reading and clearing the counters. -/

namespace Sys2Proof.Machine

/-! ### Receiving ports (R183) -/

/-- A mask admits the class of a broadcast event at port p; a PEER event never goes to the port it names (R91, R183).
The other kinds are not broadcast. -/
def EventMask.admits (m : EventMask) (p : Port) : EventData → Bool
  | .peer _ q => m.peer && q != p
  | .linkState _ _ _ => m.link
  | .slip _ _ => m.slip
  | .refState _ _ _ | .refRequestDropped _ _ _ _ => m.ref
  | .claimLost _ _ _ | .commitTaken _ _ _ _ | .commitRejected _ _ _ | .commitCancelled _ => false
  | .msgSent _ | .msgDiscarded _ | .mailboxOverflow _ | .eventsLost _ => false

/-- Port p receives a copy of an event: its row is OPEN, and either its mask admits the class of a broadcast event from
which it is not barred, or the addressed event names it in its present session (R180 step 1, R183; R59, R92, R101,
R126, logs 25 and 30). -/
def receives (s : State) (ev : RaisedEvent) (p : Port) : Bool :=
  let row := s.sessions.get p
  row.isOpen &&
    match ev.audience with
    | .all barred => !barred.contains p && row.mask.admits p ev.data
    | .only q number => q == p && number == row.number

/-! ### One queue (R180, R181, R185) -/

/-- The record is an EVENTS_LOST record. -/
def EventRecord.isLost (r : EventRecord) : Bool :=
  match r.data with
  | .eventsLost _ => true
  | _ => false

/-- An EVENTS_LOST record counts a further lost copy; its frame stays (R181). -/
def EventRecord.countLost (r : EventRecord) : EventRecord :=
  match r.data with
  | .eventsLost c => { r with data := .eventsLost (bump c) }
  | _ => r

/-- The records of the session `number`: those that are not stale (R185). -/
def currentRecords (number : SessionNo) (q : List EventRecord) : List EventRecord := q.filter fun r => r.session == number

/-- Steps 2 to 5 of R180 at one queue: a copy with the given stamp and data. -/
def queueCopy (number : SessionNo) (frame : FrameNo) (data : EventData) (q : List EventRecord) : List EventRecord :=
  let kept := currentRecords number q
  if kept.any EventRecord.isLost then kept.map EventRecord.countLost
  else if kept.length < Config.eventRoom then kept ++ [⟨data, frame, number⟩]
  else kept ++ [⟨.eventsLost 1, frame, number⟩]

/-- The head of a queue is among the records about to be removed. -/
def headRemoved (keep : EventRecord → Bool) (q : List EventRecord) : Bool :=
  match q with
  | [] => false
  | r :: _ => !keep r

/-- The item chosen is an event. -/
def OutItem.isEvent : OutItem → Bool
  | .event _ => true
  | .idle | .response _ => false

/-- The item chosen is a response. -/
def OutItem.isResponse : OutItem → Bool
  | .response _ => true
  | .idle | .event _ => false

/-- The event chosen at the fall of a transaction stands at the head of its queue; when the head is removed, the
transaction knows (R162). -/
def PortState.loseEvent (gone : Bool) (c : PortState) : PortState :=
  { c with transaction := c.transaction.map fun t => { t with removed := t.removed || (gone && t.item.isEvent) } }

/-- The same for the response chosen (R162). -/
def PortState.loseResponse (c : PortState) : PortState :=
  { c with transaction := c.transaction.map fun t => { t with removed := t.removed || t.item.isResponse } }

namespace State

/-- The records of port p's queue that do not meet `keep` are removed (R185, R186). -/
def keepEvents (p : Port) (keep : EventRecord → Bool) (s : State) : State :=
  { s with
    events := s.events.modify p fun q => q.filter keep
    ports := s.ports.modify p (PortState.loseEvent (headRemoved keep (s.events.get p))) }

/-! ### Queuing (R180) -/

/-- Port p's queue after the Event Unit has taken an event. -/
def queueAfter (s : State) (ev : RaisedEvent) (p : Port) : List EventRecord :=
  if receives s ev p then queueCopy (s.sessionNo p) s.frame ev.data (s.events.get p) else s.events.get p

/-- Port p after the Event Unit has taken an event: only the mark of R162 may change. -/
def portAfter (s : State) (ev : RaisedEvent) (p : Port) : PortState :=
  if receives s ev p then
    (s.ports.get p).loseEvent (headRemoved (fun r => r.session == s.sessionNo p) (s.events.get p))
  else s.ports.get p

/-- The Event Unit takes one raised event: a copy for every receiving port (R180, R182). -/
def queueRaised (ev : RaisedEvent) (s : State) : State :=
  { s with events := Tab.tabulate (s.queueAfter ev), ports := Tab.tabulate (s.portAfter ev) }

/-- The Event Unit takes every event on its way to it, oldest first (log 8). -/
def drainRaised (s : State) : State :=
  s.raised.foldl (fun t ev => t.queueRaised ev) { s with raised := [] }

end State

/-- RAISED_EVENT_QUEUING: the oldest event of the given block (R180, R182). -/
def execRaisedEventQueuing (source : EventSource) (s : State) : Host.Outcome State Fault Refusal :=
  .next <|
    match takeFirst (fun e => e.source == source) s.raised with
    | none => s
    | some (ev, rest) => ({ s with raised := rest } : State).queueRaised ev

/-- EVU_SESSION_END_NOTICE: the records of the ended session leave the port's queue (R186). -/
def execEvuSessionEndNotice (p : Port) (s : State) : Host.Outcome State Fault Refusal :=
  .next <|
    match takeFirst (fun n => n.port == p) s.evuNotices with
    | none => s
    | some (n, rest) => ({ s with evuNotices := rest } : State).keepEvents p fun r => r.session != n.session

/-- Soft reset at the Event Unit: the four queues are emptied (R187). -/
def State.softResetEvents (s : State) : State :=
  { s with
    events := Tab.fill []
    ports := Tab.tabulate fun p => (s.ports.get p).loseEvent (headRemoved (fun _ => false) (s.events.get p)) }

/-! ### SET_EVENT_MASK (R184) -/

/-- The mask of a parameter byte: bits 4 to 7 must be 0 (R159, R184). -/
def readMask (b : Byte) : Option EventMask :=
  if 16 ≤ b.toNat then none else some ⟨b.getLsbD 0, b.getLsbD 1, b.getLsbD 2, b.getLsbD 3⟩

/-- The mask in the encoding of the parameter byte (R184). -/
def EventMask.byte (m : EventMask) : List Byte :=
  small ((if m.peer then 1 else 0) + (if m.link then 2 else 0) + (if m.slip then 4 else 0) + (if m.ref then 8 else 0))

/-- SET_EVENT_MASK (mask) (R184): the response carries the mask held before. -/
def setEventMaskHandler (p : Port) (ps : List Byte) (s : State) : State × Reply :=
  match ps with
  | [b] =>
    match readMask b with
    | none => (s, badArg)
    | some m => (s.onSession p fun r => { r with mask := m }, ok (s.sessions.get p).mask.byte)
  | _ => (s, badArg)

/-! ### Counters (R190 to R193) -/

/-- An instance of counters: a link or a port. -/
inductive CounterGroup where
  | link (n : Link)
  | port (p : Port)
  deriving DecidableEq, Repr

/-- The instance two bytes name: $00 a link, $01 a port (R159, R192). -/
def readGroup (kind number : Byte) : Option CounterGroup :=
  if kind = 0 then (readLink number).map .link
  else if kind = 1 then (readPort number).map .port
  else none

/-- The thirteen counters of a link, in the order of R190. -/
def linkCounters (s : State) (n : Link) : List Counter :=
  let c := (s.receivers.get n).counters
  let e := s.stores.get n
  let a := s.assemblers.get n
  [c.damaged, c.misaligned, c.lossOfFrame, c.lossOfSignal, c.badSideCode, e.dropSlips, e.repeatSlips,
    a.stray, a.overlong, a.truncated, a.damaged, a.aborted, a.badMessage]

/-- The three counters of a port, in the order of R190. -/
def portCounters (s : State) (p : Port) : List Counter :=
  [(s.ports.get p).badFrames, (s.ports.get p).dropped, (s.mailboxes.get p).overflowCount]

/-- The counters of an instance. -/
def groupCounters (s : State) : CounterGroup → List Counter
  | .link n => linkCounters s n
  | .port p => portCounters s p

/-- The two bytes of an instance (R159). -/
def CounterGroup.bytes : CounterGroup → List Byte
  | .link n => small 0 ++ small n
  | .port p => small 1 ++ small p

/-- The instance, the current frame and its counters (R192, R193). -/
def countersData (s : State) (g : CounterGroup) : List Byte :=
  g.bytes ++ bytes32 s.frame ++ (groupCounters s g).flatMap bytes16

/-- COUNTERS_READ (instance) (R192). -/
def countersReadHandler (ps : List Byte) (s : State) : State × Reply :=
  match ps with
  | [a, b] =>
    match readGroup a b with
    | none => (s, badArg)
    | some g => (s, ok (countersData s g))
  | _ => (s, badArg)

/-- An assembler's counters cleared, its message in progress kept (R193). -/
def Assembler.clearCounters (a : Assembler) : Assembler := { Assembler.initial with buffer := a.buffer }

/-- A port's two counters cleared (R175, R193). -/
def PortState.clearCounters (c : PortState) : PortState := { c with badFrames := 0, dropped := 0 }

/-- A mailbox's overflow counter cleared, its flag kept (R193). -/
def Mailbox.clearCounter (m : Mailbox) : Mailbox := { m with overflowCount := 0 }

/-- Every counter of an instance set to 0 (R193). -/
def State.clearGroup (g : CounterGroup) (s : State) : State :=
  match g with
  | .link n =>
    ((s.onReceiver n Receiver.clearCounters).onStore n Store.clearCounters).onAssembler n Assembler.clearCounters
  | .port p => (s.onPort p PortState.clearCounters).onMailbox p Mailbox.clearCounter

/-- Every counter of every instance set to 0 (R193). -/
def State.clearAllCounters (s : State) : State :=
  { s with
    receivers := s.receivers.map Receiver.clearCounters
    stores := s.stores.map Store.clearCounters
    assemblers := s.assemblers.map Assembler.clearCounters
    ports := s.ports.map PortState.clearCounters
    mailboxes := s.mailboxes.map Mailbox.clearCounter }

/-- COUNTERS_CLEAR (instance); $FF $00 names every instance (R193). -/
def countersClearHandler (ps : List Byte) (s : State) : State × Reply :=
  match ps with
  | [a, b] =>
    if a = 0xFF ∧ b = 0 then (s.clearAllCounters, ok (bytes32 s.frame))
    else match readGroup a b with
      | none => (s, badArg)
      | some g => (s.clearGroup g, ok (countersData s g))
  | _ => (s, badArg)

end Sys2Proof.Machine
end

