-- ==== Sys2Proof/Machine/Transmitters.lean ====
section
/-! DEFINITION. The link transmitters (R23 to R33): enable, the side field, the frame sent, and the line coding. -/

namespace Sys2Proof.Machine

/-! ### The frame sent (R25) -/

/-- The side field of a frame: code and side bytes (R29). -/
structure SideField where
  code : BitVec 3
  a    : Byte
  b    : Byte
  deriving DecidableEq, Repr

/-- Flags byte: grade in bits 0 to 2, side state code in bits 3 to 5, bits 6 and 7 zero (R1, R25). -/
def flagsByte (grade : Grade) (code : BitVec 3) : Byte := 0#2 ++ code ++ grade

/-- Bytes 0 to 52 of the frame sent (R25). -/
def frameBody (grade : Grade) (f : SideField) (x : Samples) : List Byte :=
  [0xD2, 0x4B, flagsByte grade f.code] ++ x.cells.flatMap sampleBytes ++ [f.a, f.b]

theorem frameBody_length (grade : Grade) (f : SideField) (x : Samples) : (frameBody grade f x).length = 53 := by
  have h : (x.cells.flatMap sampleBytes).length = 3 * x.cells.length := by
    generalize x.cells = l
    induction l with
    | nil => rfl
    | cons y ys ih => simp only [List.flatMap_cons, List.length_append, ih, List.length_cons]
                      simp only [sampleBytes, List.length_cons, List.length_nil]; omega
  simp only [frameBody, List.length_append, List.length_cons, List.length_nil, h, x.size]

/-- The frame sent: its CRC-8 covers bytes 0 to 52 (R25). -/
def buildFrame (grade : Grade) (f : SideField) (x : Samples) : LinkFrame :=
  ⟨frameBody grade f x ++ [crc8 (frameBody grade f x)], by simp [frameBody_length]⟩

/-! ### The line (R24) -/

/-- The bits of a byte, most significant first. -/
def byteBits (b : Byte) : List Bool :=
  [b.getLsbD 7, b.getLsbD 6, b.getLsbD 5, b.getLsbD 4, b.getLsbD 3, b.getLsbD 2, b.getLsbD 1, b.getLsbD 0]

/-- The 432 bits of a frame in the order sent (R1). -/
def frameBits (f : LinkFrame) : List Bool := f.cells.flatMap byteBits

/-- The two half-cell levels of each bit: the level changes at the start of every cell, and a 1 changes it at the
middle too (R24). `level` is the level before the first cell. -/
def lineCells (level : Bool) : List Bool → List (Bool × Bool)
  | [] => []
  | b :: bs =>
    let first := !level
    let second := if b then !first else first
    (first, second) :: lineCells second bs

/-- The coded cells of the frame in progress, in the order sent; none while the line is steady (R24). -/
def Transmitter.cells (t : Transmitter) : List (Bool × Bool) :=
  match t.line with
  | none => []
  | some f => lineCells t.level (frameBits f)

/-- The level of the line at the end of the frame in progress, from which the next frame's first cell changes, or its
steady level (R24). -/
def Transmitter.endLevel (t : Transmitter) : Bool :=
  match t.cells.getLast? with
  | none => t.level
  | some c => c.2

/-- The level of output line n at a moment of the current frame: its 432 cells of two halves are spread evenly over the
frame period (R24). -/
def State.lineLevel (s : State) (n : Link) (moment : Time) : Bool :=
  let t := s.transmitters.get n
  (t.cells.flatMap fun c => [c.1, c.2]).getD ((moment - s.timing.begun) * 864 / s.timing.frameLength) t.endLevel

/-! ### The side field (R28 to R30) -/

/-- What a transmitter takes from the queue and hands on at a boundary. -/
structure TxStep where
  sending : Sending
  queue   : List QueuedMessage
  field   : SideField
  deriving DecidableEq, Repr

/-- The idle side field, and the ABORT of R29. -/
def idleField : SideField := ⟨0, 0, 0⟩
def abortField : SideField := ⟨5, 0, 0⟩

/-- The next part of the message in flight (R29). -/
def InFlight.nextField (m : InFlight) : SideField × InFlight :=
  let k := m.nextByte
  if 3 ≤ m.wire.length - k then
    (⟨2, m.wire.getD k 0, m.wire.getD (k + 1) 0⟩, { m with nextByte := k + 2 })
  else if m.wire.length - k = 2 then
    (⟨4, m.wire.getD k 0, m.wire.getD (k + 1) 0⟩, { m with nextByte := k + 2, lastPlaced := true })
  else
    (⟨3, m.wire.getD k 0, 0⟩, { m with nextByte := k + 1, lastPlaced := true })

/-- The choice of the side field from the sending state (R29, R147). -/
def chooseField (st : Sending) (queue : List QueuedMessage) : TxStep :=
  match st, queue with
  | .idle, [] => ⟨.idle, [], idleField⟩
  | .idle, m :: rest =>
    ⟨.sending ⟨m.origin, m.session, m.messageId, m.wire, 2, false⟩, rest, ⟨1, m.wire.getD 0 0, m.wire.getD 1 0⟩⟩
  | .sending m, q => ⟨.sending m.nextField.2, q, m.nextField.1⟩
  | .aborting, q => ⟨.idle, q, abortField⟩

/-- The message whose last frame is complete at this boundary (R30). -/
def Sending.completed : Sending → Option InFlight
  | .sending m => if m.lastPlaced then some m else none
  | .idle | .aborting => none

/-- The sending state after a completion that falls due (R30). -/
def Sending.afterCompletion (st : Sending) : Sending :=
  match st.completed with
  | some _ => .idle
  | none => st

/-- The completion notice, if one falls due (R30). -/
def Sending.completionNotices (st : Sending) : List TxNotice :=
  match st.completed with
  | some m => [.completion m.origin m.session m.messageId]
  | none => []

/-! ### A boundary at the transmitters (R23, R25) -/

/-- The transmitter begins a frame at this boundary: WAITING becomes ACTIVE (R23). -/
def Transmitter.sends (t : Transmitter) : Bool := t.state != .off

/-- A transmitter's part of a boundary: completion, side field, frame (R25). -/
def Transmitter.step (t : Transmitter) (queue : List QueuedMessage) : TxStep :=
  chooseField t.sending.afterCompletion queue

/-- The samples of destinations 16n to 16n+15, in slot order (R26, R81). -/
def outputSamples (s : State) (n : Link) : Samples :=
  Tab.tabulate fun i : Slot => (s.activeMap.get ⟨16 * n.val + i.val, by omega⟩).current

/-- Every transmitter takes its part of the boundary (R23 to R30). -/
def State.transmit (s : State) : State :=
  { s with
    transmitters := Tab.tabulate fun n =>
      let t := s.transmitters.get n
      if t.sends then
        let r := t.step (s.txQueues.get n)
        ⟨.active, r.sending, some (buildFrame s.transmittedGrade r.field (outputSamples s n)), t.endLevel⟩
      else t
    txQueues := Tab.tabulate fun n =>
      let t := s.transmitters.get n
      if t.sends then (t.step (s.txQueues.get n)).queue else s.txQueues.get n
    txNotices := Tab.tabulate fun n =>
      let t := s.transmitters.get n
      if t.sends then s.txNotices.get n ++ t.sending.completionNotices else s.txNotices.get n }

/-! ### Enable, disable and soft reset (R23, R32, R33) -/

/-- The notices a transmitter hands on when it is disabled (R32). -/
def Sending.disableNotices : Sending → List TxNotice
  | .sending m => [.discard m.origin m.session m.messageId, .disable]
  | .idle | .aborting => [.disable]

/-- The transmit part of LINK_CONFIG (R23, R32). A line that falls quiet keeps the level it has (R24, log 19). -/
def State.configTransmitter (n : Link) (on : Bool) (s : State) : State :=
  let t := s.transmitters.get n
  match t.state, on with
  | .off, true => s.onTransmitter n fun _ => ⟨.waiting, .idle, none, t.level⟩
  | .off, false => s
  | _, true => s
  | _, false =>
    { s with
      transmitters := s.transmitters.put n ⟨.off, .idle, none, s.lineLevel n s.now⟩
      txNotices := s.txNotices.modify n fun q => q ++ t.sending.disableNotices }

/-- LINK_CONFIG (link, receive enable, transmit enable) (R3). -/
def linkConfigHandler (ps : List Byte) (s : State) : State × Reply :=
  match ps with
  | [a, b, c] =>
    match readLink a, readOnOff b, readOnOff c with
    | some n, some rx, some tx => ((s.configReceiver n rx).configTransmitter n tx, ok [])
    | _, _, _ => (s, badArg)
  | _ => (s, badArg)

/-- Soft reset at a transmitter: a message whose END is not on the line is cut with ABORT (R33). -/
def Transmitter.softReset (t : Transmitter) : Transmitter :=
  match t.sending with
  | .sending m => if m.lastPlaced then t else { t with sending := .aborting }
  | .idle | .aborting => t

end Sys2Proof.Machine
end

