-- ==== Sys2Proof/Machine/Timing.lean ====
section
/-! DEFINITION. The Frame Timing Unit (R34 to R37) and the output frame boundary, which paces the selector's phase
tests (R48, R49), the stores, the take, the map and the transmitters. -/

namespace Sys2Proof.Machine

/-! ### Intervals and phase (R35) -/

/-- The reference interval limited to 0.995 to 1.005 times the nominal period; the nominal period where none has
been measured (R35). -/
def limitedInterval (measured : Option Time) : Time :=
  match measured with
  | none => Config.nominalPeriod
  | some t =>
    if t < Config.minInterval then Config.minInterval
    else if Config.maxInterval < t then Config.maxInterval
    else t

/-- A time reduced into −1/2 to +1/2 of a frame of the given length, by whole frames (R35). At exactly half a frame,
where the range holds both signs, it is +1/2: the model's choice (log 31). -/
def reducePhase (length d : Int) : Int :=
  if length < 2 * (d % length) then d % length - length else d % length

/-- The error lies within ±1/k of a frame of the given length. -/
def withinPart (k : Nat) (length : Time) (e : Int) : Bool := k * e.natAbs ≤ length

/-- The phase correction: the negative of the error, limited to 1/256 frame (R35, log 11). -/
def phaseCorrection (length : Time) (e : Int) : Int :=
  if withinPart 256 length e then -e
  else if 0 < e then -((length / 256 : Nat) : Int)
  else ((length / 256 : Nat) : Int)

/-- The error in units of 1/32,768 frame (R159, log 16). -/
def phaseReport (length : Time) (e : Int) : BitVec 16 := BitVec.ofInt 16 ((e * 32768).tdiv length)

namespace State

/-- The reference events of row r's source (R35); an EMPTY row has none. -/
def refClock (s : State) (r : RowIx) : RefClock :=
  match (s.row r).source with
  | .link n => (s.receivers.get n).clock
  | .wclk => s.selector.monitor.clock
  | .empty => RefClock.initial

/-- The limited reference interval of row r, which is also the frame of its phase error (R35, log 10). -/
def refLength (s : State) (r : RowIx) : Time := limitedInterval (s.refClock r).interval

/-- The phase error toward row r at the boundary that began the current frame (R35); a free value where the source
has had no reference event (log 12). -/
def phaseError (s : State) (r : RowIx) : Int :=
  match (s.refClock r).last with
  | some t => reducePhase (s.refLength r) ((s.timing.begun : Int) - (t : Int))
  | none => Config.unmeasuredPhase r s.frame

/-! ### The selector at a boundary (R48, R49) -/

/-- The error a boundary tests is the one REF_STATUS reports (R60, log 14). -/
def recordPhase (r : RowIx) (s : State) : State :=
  s.onSelector fun l => { l with phase := phaseReport (s.refLength r) (s.phaseError r) }

/-- A boundary in LOCKING(r): count, then capture, capture failure or neither (R48). -/
def testCapture (r : RowIx) (s : State) : State :=
  let s1 := (s.recordPhase r).onSelector fun l => { l with captureCount := l.captureCount + 1 }
  if withinPart 8 (s.refLength r) (s.phaseError r) then s1.enterLocked r
  else if s1.selector.captureCount < Config.captureLimit then s1
  else s1.captureFailure r

/-- A boundary in LOCKED(r): loss of phase beyond 1/4 frame (R49). -/
def testLock (r : RowIx) (s : State) : State :=
  let s1 := s.recordPhase r
  if withinPart 4 (s.refLength r) (s.phaseError r) then s1 else s1.enterLocking r .phaseLoss

/-- The selector's part of a boundary. -/
def selectorBoundary (s : State) : State :=
  match s.selector.state with
  | .locking r => s.testCapture r
  | .locked r => s.testLock r
  | .freeRun | .holdover => s

/-! ### The frame begun (R35, R36) -/

/-- The length of the frame begun, from the selector state at the boundary (R35). -/
def lengthOfFrame (s : State) : Time :=
  match s.selector.state with
  | .freeRun => Config.nominalPeriod
  | .holdover => s.timing.heldPeriod
  | .locking r | .locked r => ((s.refLength r : Int) + phaseCorrection (s.refLength r) (s.phaseError r)).toNat

/-- The held period after a boundary (R36). -/
def heldAfter (s : State) : Time :=
  match s.selector.state with
  | .locked r => if withinPart 8 (s.refLength r) (s.phaseError r) then s.refLength r else s.timing.heldPeriod
  | .freeRun | .holdover | .locking _ => s.timing.heldPeriod

/-- The counter increases by one and the boundary falls one frame length after the last (R34). -/
def beginFrame (s : State) : State :=
  (s.advanceTo (s.timing.begun + s.timing.frameLength)).onTiming fun t =>
    { t with frameCounter := t.frameCounter + 1, begun := t.begun + t.frameLength }

/-- The length of the frame begun, the held period, and the rise of WCLK_OUT (R35, R36, R37). -/
def fixFrame (s : State) : State :=
  s.onTiming fun t =>
    { t with frameLength := s.lengthOfFrame, heldPeriod := s.heldAfter, wclkPin := t.wclkEnable }

end State

/-- OUTPUT_FRAME_BOUNDARY. What earlier events raised is queued first (log 8); then the counter, the selector and the
frame length (R34, R35, R48), the stores (R16), the take (R119), the map (R64) and the transmitters (R25). -/
def execOutputFrameBoundary (s : State) : Host.Outcome State Fault Refusal :=
  .next s.drainRaised.beginFrame.selectorBoundary.fixFrame.readStores.take.computeMap.transmit

/-! ### The word-clock output (R37) -/

/-- WCLK_OUT_FALL: the pulse ends when half the frame has passed (R37, log 11). -/
def execWclkOutFall (s : State) : Host.Outcome State Fault Refusal :=
  .next <|
    if s.timing.wclkPin then
      (s.advanceTo (s.timing.begun + s.timing.frameLength / 2)).onTiming fun t => { t with wclkPin := false }
    else s

/-- WCLK_OUT (on or off) (R37): on leaves the pin as it is until the next boundary, off drives it low. -/
def wclkOutHandler (ps : List Byte) (s : State) : State × Reply :=
  match ps with
  | [a] =>
    match readOnOff a with
    | none => (s, badArg)
    | some v => (s.onTiming fun t => { t with wclkEnable := v, wclkPin := v && t.wclkPin }, ok [])
  | _ => (s, badArg)

end Sys2Proof.Machine
end

