-- ==== Sys2Proof/Machine/Catalogue.lean ====
section
/-! DEFINITION. The command catalogue (R173), the order of gating (R169), and the block each command goes to. -/

namespace Sys2Proof.Machine

/-- The commands of R173. -/
inductive Cmd where
  | open_ | ping | close | claim | release | queryOwner | softReset
  | linkConfig | linkStatus | readFrame
  | refTable | refLockout | refMode | refForce | refManual | refClear | refStatus | wclkOut
  | readMap
  | stage | unstage | discard | stagingRead | commit | cancel | commitList
  | subscribe | unsubscribe | fetch | send
  | setEventMask | countersRead | countersClear
  deriving DecidableEq, Repr

namespace Cmd

/-- The code of a command (R173). -/
def code : Cmd → Byte
  | open_ => 0x01 | ping => 0x02 | close => 0x03 | claim => 0x04 | release => 0x05 | queryOwner => 0x06
  | softReset => 0x07
  | linkConfig => 0x10 | linkStatus => 0x11 | readFrame => 0x12
  | refTable => 0x20 | refLockout => 0x21 | refMode => 0x22 | refForce => 0x23 | refManual => 0x24
  | refClear => 0x25 | refStatus => 0x26 | wclkOut => 0x27
  | readMap => 0x30
  | stage => 0x40 | unstage => 0x41 | discard => 0x42 | stagingRead => 0x43 | commit => 0x44 | cancel => 0x45
  | commitList => 0x46
  | subscribe => 0x50 | unsubscribe => 0x51 | fetch => 0x52 | send => 0x53
  | setEventMask => 0x60 | countersRead => 0x61 | countersClear => 0x62

/-- Every command, in the order of R173. -/
def all : List Cmd :=
  [open_, ping, close, claim, release, queryOwner, softReset, linkConfig, linkStatus, readFrame, refTable, refLockout,
    refMode, refForce, refManual, refClear, refStatus, wclkOut, readMap, stage, unstage, discard, stagingRead, commit,
    cancel, commitList, subscribe, unsubscribe, fetch, send, setEventMask, countersRead, countersClear]

/-- The command a code names; none is an unknown code. -/
def ofCode (b : Byte) : Option Cmd := all.find? fun c => c.code == b

/-- The parameter lengths gating accepts (R173). -/
def lengthOk (c : Cmd) (l : Nat) : Bool :=
  match c with
  | open_ | claim | linkConfig | refTable | cancel | subscribe => l == 3
  | ping | close | softReset | refClear | refStatus | discard | commitList | fetch => l == 0
  | release | queryOwner | refLockout | readMap | countersRead | countersClear => l == 2
  | linkStatus | readFrame | refForce | refManual | wclkOut | unstage | stagingRead | unsubscribe => l == 1
  | setEventMask => l == 1
  | refMode => 1 ≤ l && l ≤ 7
  | stage => 2 ≤ l && l ≤ 8
  | commit => l == 0 || l == 4
  | send => 2 ≤ l && l ≤ 34

/-- The command needs an open session (R173). -/
def needsSession : Cmd → Bool
  | open_ | queryOwner | linkStatus | readFrame | refStatus | readMap | countersRead => false
  | _ => true

/-- The command needs the configuration right (R99, R173). -/
def needsRight : Cmd → Bool
  | softReset | linkConfig | refTable | refLockout | refMode | wclkOut | countersClear => true
  | _ => false

end Cmd

/-! ### Soft reset (R100) -/

/-- Every block that a soft reset reaches after the Session and Claim Unit. -/
def ResetBlock.all : List ResetBlock :=
  (List.finRange 16).map .receiver ++ (List.finRange 16).map .transmitter
    ++ [.selector, .map, .changeManager, .messageUnit, .eventUnit] ++ (List.finRange 4).map .port

namespace State

/-- A soft reset reaches one block, which applies its own rule (R22, R33, R61, R78, R128, R151, R187, R175). -/
def reachBlock (b : ResetBlock) (s : State) : State :=
  match b with
  | .receiver n => (s.onReceiver n Receiver.clearCounters).onStore n Store.clearCounters
  | .transmitter n => s.onTransmitter n Transmitter.softReset
  | .selector => s.softResetSelector
  | .map => { s with activeMap := s.activeMap.map MapEntry.softReset }
  | .changeManager => s.softResetChanges
  | .messageUnit => s.softResetMessages
  | .eventUnit => s.softResetEvents
  | .port p => s.onPort p PortState.clearCounters

/-- The response queue of every port but p is emptied (R100 step 2). -/
def emptyOtherResponses (p : Port) (s : State) : State :=
  { s with ports := Tab.tabulate fun q =>
      if q = p then s.ports.get q else { (s.ports.get q).loseResponse with responses := [] } }

/-- Steps 2 and 3 of R100. -/
def beginSoftReset (p : Port) (s : State) : State := (s.emptyOtherResponses p).softResetSessions

/-- Step 4 of R100: every other block, one after the other. -/
def reachAll (s : State) : State := ResetBlock.all.foldl (fun t b => t.reachBlock b) s

end State

/-- SOFT_RESET (R100); its response is queued by the port, whose own queue no step of R100 touches. `span` says how
far it reaches in this step (log 6). -/
def softResetHandler (p : Port) (span : ResetSpan) (s : State) : State × Reply :=
  match span with
  | .whole => ((s.beginSoftReset p).reachAll, ok [])
  | .begun => ({ s.beginSoftReset p with resetToReach := ResetBlock.all }, ok [])

/-! ### Gating (R168, R169) -/

/-- The block that owns a command takes it, by the command's own rule. -/
def Cmd.handle (c : Cmd) (p : Port) (ps : List Byte) (span : ResetSpan) (s : State) : State × Reply :=
  match c with
  | .open_ => openHandler p ps s
  | .ping => pingHandler p s
  | .close => closeHandler p s
  | .claim => claimHandler p ps s
  | .release => releaseHandler p ps s
  | .queryOwner => queryOwnerHandler ps s
  | .softReset => softResetHandler p span s
  | .linkConfig => linkConfigHandler ps s
  | .linkStatus => linkStatusHandler ps s
  | .readFrame => readFrameHandler ps s
  | .refTable => refTableHandler ps s
  | .refLockout => refLockoutHandler ps s
  | .refMode => refModeHandler ps s
  | .refForce => refForceHandler p ps s
  | .refManual => refManualHandler p ps s
  | .refClear => refClearHandler p s
  | .refStatus => refStatusHandler s
  | .wclkOut => wclkOutHandler ps s
  | .readMap => readMapHandler ps s
  | .stage => stageHandler p ps s
  | .unstage => unstageHandler p ps s
  | .discard => discardHandler p s
  | .stagingRead => stagingReadHandler p ps s
  | .commit => commitHandler p ps s
  | .cancel => cancelHandler p ps s
  | .commitList => commitListHandler p s
  | .subscribe => subscribeHandler p ps s
  | .unsubscribe => unsubscribeHandler p ps s
  | .fetch => fetchHandler p s
  | .send => sendHandler p ps s
  | .setEventMask => setEventMaskHandler p ps s
  | .countersRead => countersReadHandler ps s
  | .countersClear => countersClearHandler ps s

/-- Gating and, where it passes, the command: the first check that fails gives the response (R169). -/
def State.gate (p : Port) (code : Byte) (ps : List Byte) (span : ResetSpan) (s : State) : State × Reply :=
  match Cmd.ofCode code with
  | none => (s, ⟨.badCode, [code]⟩)
  | some c =>
    if c.needsSession ∧ !s.isOpen p then (s, refuse .noSession)
    else if c.needsRight ∧ s.precedence p ≠ 3 then (s, refuse .denied)
    else if !c.lengthOk ps.length then (s, badArg)
    else c.handle p ps span s

end Sys2Proof.Machine
end

