-- ==== Sys2Proof/Machine/Ports.lean ====
section
/-! DEFINITION. The control ports (chapter 8): transactions, delivery, classification, the take of a command frame,
held frames and the attention line. -/

namespace Sys2Proof.Machine

/-! ### Bytes in (R153, R154, R155) -/

/-- The byte of eight bits, most significant first (R153). -/
def byteOfBits (bs : List Bool) : Byte := bs.foldl (fun a b => (a <<< 1) ||| (if b then 1 else 0)) 0

/-- The whole bytes of the bits clocked in; bits after the last whole byte are discarded (R153). -/
def wholeBytes : List Bool → List Byte
  | a :: b :: c :: d :: e :: f :: g :: h :: rest => byteOfBits [a, b, c, d, e, f, g, h] :: wholeBytes rest
  | _ => []

/-- No inbound bytes yet. -/
def Inbound.empty : Inbound := ⟨[], 0, true⟩

/-- Further bytes: the first 65 are kept, all are counted (R154). -/
def Inbound.add (i : Inbound) (bs : List Byte) : Inbound :=
  ⟨(i.kept ++ bs).take Config.inboundKept, i.count + bs.length, i.allZero && bs.all fun b => b == 0⟩

/-- The inbound bytes of a whole transaction. -/
def Inbound.ofBytes (bs : List Byte) : Inbound := Inbound.empty.add bs

/-- A command frame (R155). -/
def commandFrame (tag code : Byte) (ps : List Byte) : List Byte :=
  let body := [0xA6, tag, code, BitVec.ofNat 8 ps.length] ++ ps
  body ++ [crc8 body]

/-- The cause of a bad frame (R166). -/
inductive BadCause where
  | sync
  | length
  | check
  deriving DecidableEq, Repr

def BadCause.code : BadCause → Nat
  | .sync => 0 | .length => 1 | .check => 2

/-- What inbound bytes are (R165). -/
inductive Inward where
  | noCommand
  | bad (cause : BadCause)
  | good (tag code : Byte) (params : List Byte)
  deriving DecidableEq, Repr

/-- The transaction carries no command (R165). -/
def Inbound.noCommand (i : Inbound) : Bool := i.count < 6 || i.allZero

/-- Byte `k` of those kept. -/
def Inbound.byte (i : Inbound) (k : Nat) : Byte := i.kept.getD k 0

/-- The length byte L (R155). -/
def Inbound.paramLength (i : Inbound) : Nat := (i.byte 3).toNat

/-- R165: the first case that applies. -/
def Inbound.classify (i : Inbound) : Inward :=
  if i.noCommand then .noCommand
  else if i.byte 0 ≠ 0xA6 then .bad .sync
  else if Config.paramMax < i.paramLength ∨ i.count < 5 + i.paramLength then .bad .length
  else if crc8 (i.kept.take (4 + i.paramLength)) ≠ i.byte (4 + i.paramLength) then .bad .check
  else .good (i.byte 1) (i.byte 2) ((i.kept.drop 4).take i.paramLength)

/-! ### Taking a frame (R166, R167, R168) -/

/-- The response queue holds as many responses as it can (R171). -/
def PortState.full (c : PortState) : Bool := Config.responseMax ≤ c.responses.length

/-- A response joins the queue (R171). -/
def PortState.answer (tag : Byte) (r : Reply) (c : PortState) : PortState :=
  { c with responses := c.responses ++ [⟨tag, r⟩] }

/-- One dropped command (R176). -/
def PortState.drop (c : PortState) : PortState := { c with dropped := bump c.dropped }

/-- A bad frame: counted, and answered when there is room (R166). -/
def PortState.takeBad (tag : Byte) (cause : BadCause) (c : PortState) : PortState :=
  let c1 := { c with badFrames := bump c.badFrames }
  if c.full then c1 else c1.answer tag ⟨.badFrame, small cause.code⟩

/-- Inbound bytes that would make a command, while a soft reset is in progress or a frame is held (R174). -/
def PortState.hold (i : Inbound) (c : PortState) : PortState :=
  match c.held with
  | none => { c with held := some i }
  | some _ => c.drop

namespace State

/-- A good frame (R167, R168): dropped against a full queue; else the lease is renewed, the command gated and taken,
and its one response queued. -/
def takeFrame (p : Port) (tag code : Byte) (ps : List Byte) (span : ResetSpan) (s : State) : State :=
  if (s.ports.get p).full then s.onPort p PortState.drop
  else
    let r := (s.renewLease p).gate p code ps span
    r.1.onPort p (PortState.answer tag r.2)

/-- Inbound bytes are classified and handled (R165 to R168). -/
def takeInbound (p : Port) (i : Inbound) (span : ResetSpan) (s : State) : State :=
  match i.classify with
  | .noCommand => s
  | .bad cause => s.onPort p (PortState.takeBad (i.byte 1) cause)
  | .good tag code ps => s.takeFrame p tag code ps span

/-- No command of the port is taken now: a soft reset is in progress, or a frame is held (R174, log 9). -/
def blocked (p : Port) (s : State) : Bool := s.resetToReach ≠ [] || (s.ports.get p).held.isSome

/-- A controller's command arrives as a good frame whose transaction's delivery has been settled (log 4). -/
def commandArrives (p : Port) (tag : Byte) (c : Cmd) (ps : List Byte) (span : ResetSpan) (s : State) : State :=
  if s.blocked p then s.onPort p (PortState.hold (Inbound.ofBytes (commandFrame tag c.code ps ++ [0])))
  else s.takeFrame p tag c.code ps span

/-! ### The outbound side (R160, R161, R162, R185) -/

/-- Port p's queue with its stale records gone: all of them on a CLOSED row, else those at the head of another session
(R185). -/
def freshEvents (s : State) (p : Port) : List EventRecord :=
  if s.isOpen p then (s.events.get p).dropWhile fun r => r.session != s.sessionNo p else []

/-- The outbound item chosen at a fall (R160). -/
def chosenItem (s : State) (p : Port) : OutItem :=
  match (s.ports.get p).responses, s.freshEvents p with
  | r :: _, _ => .response r
  | [], e :: _ => .event e
  | [], [] => .idle

/-- A transaction begins: the item and its bytes are fixed (R160); stale records are removed when the port would
choose an event (R185). -/
def beginTransaction (p : Port) (s : State) : State :=
  let item := s.chosenItem p
  ({ s with
      events := if (s.ports.get p).responses = [] then s.events.put p (s.freshEvents p) else s.events }).onPort p
    fun c => { c with transaction := some ⟨item, item.frame, false, Inbound.empty⟩ }

end State

/-- A queue whose head was sent whole: the head leaves, but an EVENTS_LOST whose count rose stays with the remainder
and the current frame (R162, R181). -/
def deliverHead (sent : EventRecord) (now : FrameNo) (q : List EventRecord) : List EventRecord :=
  match q with
  | [] => []
  | h :: rest =>
    match sent.data, h.data with
    | .eventsLost c, .eventsLost d =>
      if c = d then rest else { h with data := .eventsLost (d - c), frame := now } :: rest
    | _, _ => rest

/-- The item was clocked whole and still stands in its queue (R161, R162). -/
def Transaction.delivered (t : Transaction) (count : Nat) : Bool := t.bytes.length ≤ count && !t.removed

/-- Delivery settled at the rise, `count` whole bytes having been clocked (R161, R162). A record gone stale since the fall
is not delivered and stays for the removals of R185. -/
def State.settle (p : Port) (t : Transaction) (count : Nat) (s : State) : State :=
  if t.delivered count then
    match t.item with
    | .idle => s
    | .response _ => s.onPort p fun c => { c with responses := c.responses.tail }
    | .event r =>
      if s.openWith p r.session then { s with events := s.events.modify p (deliverHead r s.frame) } else s
  else s

/-- Bit k that SDO carries of a frame: most significant bit of each byte first, $00 after the frame (R153, R156). -/
def sdoBit (frame : List Byte) (k : Nat) : Bool := (sdoByte frame (k / 8)).getLsbD (7 - k % 8)

/-- What SDO of port p carries in a transaction of `clocks` clocks: bit 0 from the fall of chip select, bit k from the
k-th falling edge of the clock (R153). None is high impedance, while no transaction is in progress (log 23). A bit
after the last whole byte has no defined value (R153, log 34). -/
def State.sdo (s : State) (p : Port) (clocks k : Nat) : Option Bool :=
  match (s.ports.get p).transaction with
  | none => none
  | some t => if k / 8 < clocks / 8 then some (sdoBit t.bytes k) else some (Config.looseBit p s.now k)

/-- ATTN of port p is low: its response queue or its event queue holds an item (R172). -/
def attentionLow (s : State) (p : Port) : Bool := !(s.ports.get p).responses.isEmpty || !(s.events.get p).isEmpty

/-! ### Chip select (R160, R164) and held frames (R174) -/

/-- CHIP_SELECT_FALL (R160, R185). -/
def execChipSelectFall (p : Port) (elapsed : Time) (s : State) : Host.Outcome State Fault Refusal :=
  let s1 := s.advance elapsed
  .next <|
    match (s1.ports.get p).transaction with
    | some _ => s1
    | none => s1.beginTransaction p

/-- CHIP_SELECT_RISE (R164): delivery is settled, then the inbound bytes are classified and a good frame taken; during
a soft reset what would make a command is held (R174). -/
def execChipSelectRise (p : Port) (sdi : List Bool) (span : ResetSpan) (elapsed : Time) (s : State) :
    Host.Outcome State Fault Refusal :=
  let s1 := s.advance elapsed
  .next <|
    match (s1.ports.get p).transaction with
    | none => s1
    | some t =>
      let i := t.inbound.add (wholeBytes sdi)
      let s2 := (s1.settle p t i.count).onPort p fun c => { c with transaction := none }
      if i.noCommand then s2
      else if s2.blocked p then s2.onPort p (PortState.hold i)
      else s2.takeInbound p i span

/-- HELD_FRAME_TAKEN: once the soft reset has reached every block (R174). It finds every row CLOSED, so no SOFT_RESET
it may carry is obeyed. -/
def execHeldFrameTaken (p : Port) (s : State) : Host.Outcome State Fault Refusal :=
  .next <|
    match s.resetToReach, (s.ports.get p).held with
    | [], some i => (s.onPort p fun c => { c with held := none }).takeInbound p i .whole
    | _, _ => s

/-! ### Device reset (00 section 4.7) -/

/-- DEVICE_RESET: the state of every rule for device reset, precedence from the straps (R82); the queue of commands
waiting is the model's and stays (log 24). -/
def execDeviceReset (straps : Tab 4 Strap) (s : State) : Host.Outcome State Fault Refusal :=
  .next { State.initial straps with pending := s.pending }

end Sys2Proof.Machine
end

