-- ==== Sys2Proof/Machine/Commands.lean ====
section
/-! DEFINITION. The controllers' commands (R173), one meaning each: a good frame with the command's code arrives at the
port (R164 to R169, log 4), and the command's own rule acts if gating passes it. -/

namespace Sys2Proof.Machine

/-- OPEN (R84, R85). -/
def execOpenSession (p : Port) (tag : Byte) (ps : List Byte) (s : State) : Host.Outcome State Fault Refusal :=
  .next (s.commandArrives p tag .open_ ps .whole)

/-- PING (R88). -/
def execPing (p : Port) (tag : Byte) (ps : List Byte) (s : State) : Host.Outcome State Fault Refusal :=
  .next (s.commandArrives p tag .ping ps .whole)

/-- CLOSE (R89). -/
def execClose (p : Port) (tag : Byte) (ps : List Byte) (s : State) : Host.Outcome State Fault Refusal :=
  .next (s.commandArrives p tag .close ps .whole)

/-- CLAIM (R94, R95). -/
def execClaim (p : Port) (tag : Byte) (ps : List Byte) (s : State) : Host.Outcome State Fault Refusal :=
  .next (s.commandArrives p tag .claim ps .whole)

/-- RELEASE (R97). -/
def execRelease (p : Port) (tag : Byte) (ps : List Byte) (s : State) : Host.Outcome State Fault Refusal :=
  .next (s.commandArrives p tag .release ps .whole)

/-- QUERY_OWNER (R98). -/
def execQueryOwner (p : Port) (tag : Byte) (ps : List Byte) (s : State) : Host.Outcome State Fault Refusal :=
  .next (s.commandArrives p tag .queryOwner ps .whole)

/-- SOFT_RESET (R100): the command, or the soft reset in progress reaching one further block (log 6). -/
def execSoftReset (stage : SoftResetStep) (s : State) : Host.Outcome State Fault Refusal :=
  .next <|
    match stage with
    | .command p tag ps span => s.commandArrives p tag .softReset ps span
    | .reach b =>
      if b ∈ s.resetToReach then { s.reachBlock b with resetToReach := s.resetToReach.erase b } else s

/-- LINK_CONFIG (R3, R23). -/
def execLinkConfig (p : Port) (tag : Byte) (ps : List Byte) (s : State) : Host.Outcome State Fault Refusal :=
  .next (s.commandArrives p tag .linkConfig ps .whole)

/-- LINK_STATUS (R19). -/
def execLinkStatus (p : Port) (tag : Byte) (ps : List Byte) (s : State) : Host.Outcome State Fault Refusal :=
  .next (s.commandArrives p tag .linkStatus ps .whole)

/-- READ_FRAME (R20). -/
def execReadFrame (p : Port) (tag : Byte) (ps : List Byte) (s : State) : Host.Outcome State Fault Refusal :=
  .next (s.commandArrives p tag .readFrame ps .whole)

/-- REF_TABLE (R42). -/
def execRefTable (p : Port) (tag : Byte) (ps : List Byte) (s : State) : Host.Outcome State Fault Refusal :=
  .next (s.commandArrives p tag .refTable ps .whole)

/-- REF_LOCKOUT (R43). -/
def execRefLockout (p : Port) (tag : Byte) (ps : List Byte) (s : State) : Host.Outcome State Fault Refusal :=
  .next (s.commandArrives p tag .refLockout ps .whole)

/-- REF_MODE (R44). -/
def execRefMode (p : Port) (tag : Byte) (ps : List Byte) (s : State) : Host.Outcome State Fault Refusal :=
  .next (s.commandArrives p tag .refMode ps .whole)

/-- REF_FORCE (R55). -/
def execRefForce (p : Port) (tag : Byte) (ps : List Byte) (s : State) : Host.Outcome State Fault Refusal :=
  .next (s.commandArrives p tag .refForce ps .whole)

/-- REF_MANUAL (R56). -/
def execRefManual (p : Port) (tag : Byte) (ps : List Byte) (s : State) : Host.Outcome State Fault Refusal :=
  .next (s.commandArrives p tag .refManual ps .whole)

/-- REF_CLEAR (R57). -/
def execRefClear (p : Port) (tag : Byte) (ps : List Byte) (s : State) : Host.Outcome State Fault Refusal :=
  .next (s.commandArrives p tag .refClear ps .whole)

/-- REF_STATUS (R60). -/
def execRefStatus (p : Port) (tag : Byte) (ps : List Byte) (s : State) : Host.Outcome State Fault Refusal :=
  .next (s.commandArrives p tag .refStatus ps .whole)

/-- WCLK_OUT (R37). -/
def execWclkOut (p : Port) (tag : Byte) (ps : List Byte) (s : State) : Host.Outcome State Fault Refusal :=
  .next (s.commandArrives p tag .wclkOut ps .whole)

/-- READ_MAP (R79). -/
def execReadMap (p : Port) (tag : Byte) (ps : List Byte) (s : State) : Host.Outcome State Fault Refusal :=
  .next (s.commandArrives p tag .readMap ps .whole)

/-- STAGE (R105, R106). -/
def execStage (p : Port) (tag : Byte) (ps : List Byte) (s : State) : Host.Outcome State Fault Refusal :=
  .next (s.commandArrives p tag .stage ps .whole)

/-- UNSTAGE (R107). -/
def execUnstage (p : Port) (tag : Byte) (ps : List Byte) (s : State) : Host.Outcome State Fault Refusal :=
  .next (s.commandArrives p tag .unstage ps .whole)

/-- DISCARD (R108). -/
def execDiscard (p : Port) (tag : Byte) (ps : List Byte) (s : State) : Host.Outcome State Fault Refusal :=
  .next (s.commandArrives p tag .discard ps .whole)

/-- STAGING_READ (R110). -/
def execStagingRead (p : Port) (tag : Byte) (ps : List Byte) (s : State) : Host.Outcome State Fault Refusal :=
  .next (s.commandArrives p tag .stagingRead ps .whole)

/-- COMMIT (R111 to R114). -/
def execCommit (p : Port) (tag : Byte) (ps : List Byte) (s : State) : Host.Outcome State Fault Refusal :=
  .next (s.commandArrives p tag .commit ps .whole)

/-- CANCEL (R117). -/
def execCancel (p : Port) (tag : Byte) (ps : List Byte) (s : State) : Host.Outcome State Fault Refusal :=
  .next (s.commandArrives p tag .cancel ps .whole)

/-- COMMIT_LIST (R118). -/
def execCommitList (p : Port) (tag : Byte) (ps : List Byte) (s : State) : Host.Outcome State Fault Refusal :=
  .next (s.commandArrives p tag .commitList ps .whole)

/-- SUBSCRIBE (R137). -/
def execSubscribe (p : Port) (tag : Byte) (ps : List Byte) (s : State) : Host.Outcome State Fault Refusal :=
  .next (s.commandArrives p tag .subscribe ps .whole)

/-- UNSUBSCRIBE (R138). -/
def execUnsubscribe (p : Port) (tag : Byte) (ps : List Byte) (s : State) : Host.Outcome State Fault Refusal :=
  .next (s.commandArrives p tag .unsubscribe ps .whole)

/-- FETCH (R142). -/
def execFetch (p : Port) (tag : Byte) (ps : List Byte) (s : State) : Host.Outcome State Fault Refusal :=
  .next (s.commandArrives p tag .fetch ps .whole)

/-- SEND (R146). -/
def execSend (p : Port) (tag : Byte) (ps : List Byte) (s : State) : Host.Outcome State Fault Refusal :=
  .next (s.commandArrives p tag .send ps .whole)

/-- SET_EVENT_MASK (R184). -/
def execSetEventMask (p : Port) (tag : Byte) (ps : List Byte) (s : State) : Host.Outcome State Fault Refusal :=
  .next (s.commandArrives p tag .setEventMask ps .whole)

/-- COUNTERS_READ (R192). -/
def execCountersRead (p : Port) (tag : Byte) (ps : List Byte) (s : State) : Host.Outcome State Fault Refusal :=
  .next (s.commandArrives p tag .countersRead ps .whole)

/-- COUNTERS_CLEAR (R193). -/
def execCountersClear (p : Port) (tag : Byte) (ps : List Byte) (s : State) : Host.Outcome State Fault Refusal :=
  .next (s.commandArrives p tag .countersClear ps .whole)

end Sys2Proof.Machine
end

