-- ==== Sys2Proof/Machine/Dispatch.lean ====
section
/-! DEFINITION. One arm per command, each a direct call of its meaning. -/

namespace Sys2Proof.Machine

def exec (i : Instr) (s : State) : Host.Outcome State Fault Refusal :=
  match i with
  | .deviceReset straps => Sys2Proof.Machine.execDeviceReset straps s
  | .outputFrameBoundary => Sys2Proof.Machine.execOutputFrameBoundary s
  | .wclkOutFall => Sys2Proof.Machine.execWclkOutFall s
  | .qualificationStart n elapsed => Sys2Proof.Machine.execQualificationStart n elapsed s
  | .qualificationAbandoned n elapsed => Sys2Proof.Machine.execQualificationAbandoned n elapsed s
  | .qualificationComplete n => Sys2Proof.Machine.execQualificationComplete n s
  | .lossOfSignal n elapsed => Sys2Proof.Machine.execLossOfSignal n elapsed s
  | .alignmentPatternFound n pos elapsed => Sys2Proof.Machine.execAlignmentPatternFound n pos elapsed s
  | .confirmFrameArrival n pos f elapsed => Sys2Proof.Machine.execConfirmFrameArrival n pos f elapsed s
  | .frameArrival n pos f elapsed => Sys2Proof.Machine.execFrameArrival n pos f elapsed s
  | .wclkRisingEdge elapsed => Sys2Proof.Machine.execWclkRisingEdge elapsed s
  | .wclkMissingInterval => Sys2Proof.Machine.execWclkMissingInterval s
  | .restoreTimerExpiry r => Sys2Proof.Machine.execRestoreTimerExpiry r s
  | .holdoverTimerExpiry => Sys2Proof.Machine.execHoldoverTimerExpiry s
  | .leaseExpiry p => Sys2Proof.Machine.execLeaseExpiry p s
  | .chmSessionEndNotice p => Sys2Proof.Machine.execChmSessionEndNotice p s
  | .rslSessionEndNotice p => Sys2Proof.Machine.execRslSessionEndNotice p s
  | .msuSessionEndNotice p => Sys2Proof.Machine.execMsuSessionEndNotice p s
  | .evuSessionEndNotice p => Sys2Proof.Machine.execEvuSessionEndNotice p s
  | .completionNotice n => Sys2Proof.Machine.execCompletionNotice n s
  | .discardNotice n => Sys2Proof.Machine.execDiscardNotice n s
  | .disableNotice n => Sys2Proof.Machine.execDisableNotice n s
  | .raisedEventQueuing source => Sys2Proof.Machine.execRaisedEventQueuing source s
  | .chipSelectFall p elapsed => Sys2Proof.Machine.execChipSelectFall p elapsed s
  | .chipSelectRise p sdi span elapsed => Sys2Proof.Machine.execChipSelectRise p sdi span elapsed s
  | .heldFrameTaken p => Sys2Proof.Machine.execHeldFrameTaken p s
  | .openSession p tag ps => Sys2Proof.Machine.execOpenSession p tag ps s
  | .ping p tag ps => Sys2Proof.Machine.execPing p tag ps s
  | .close p tag ps => Sys2Proof.Machine.execClose p tag ps s
  | .claim p tag ps => Sys2Proof.Machine.execClaim p tag ps s
  | .release p tag ps => Sys2Proof.Machine.execRelease p tag ps s
  | .queryOwner p tag ps => Sys2Proof.Machine.execQueryOwner p tag ps s
  | .softReset stage => Sys2Proof.Machine.execSoftReset stage s
  | .linkConfig p tag ps => Sys2Proof.Machine.execLinkConfig p tag ps s
  | .linkStatus p tag ps => Sys2Proof.Machine.execLinkStatus p tag ps s
  | .readFrame p tag ps => Sys2Proof.Machine.execReadFrame p tag ps s
  | .refTable p tag ps => Sys2Proof.Machine.execRefTable p tag ps s
  | .refLockout p tag ps => Sys2Proof.Machine.execRefLockout p tag ps s
  | .refMode p tag ps => Sys2Proof.Machine.execRefMode p tag ps s
  | .refForce p tag ps => Sys2Proof.Machine.execRefForce p tag ps s
  | .refManual p tag ps => Sys2Proof.Machine.execRefManual p tag ps s
  | .refClear p tag ps => Sys2Proof.Machine.execRefClear p tag ps s
  | .refStatus p tag ps => Sys2Proof.Machine.execRefStatus p tag ps s
  | .wclkOut p tag ps => Sys2Proof.Machine.execWclkOut p tag ps s
  | .readMap p tag ps => Sys2Proof.Machine.execReadMap p tag ps s
  | .stage p tag ps => Sys2Proof.Machine.execStage p tag ps s
  | .unstage p tag ps => Sys2Proof.Machine.execUnstage p tag ps s
  | .discard p tag ps => Sys2Proof.Machine.execDiscard p tag ps s
  | .stagingRead p tag ps => Sys2Proof.Machine.execStagingRead p tag ps s
  | .commit p tag ps => Sys2Proof.Machine.execCommit p tag ps s
  | .cancel p tag ps => Sys2Proof.Machine.execCancel p tag ps s
  | .commitList p tag ps => Sys2Proof.Machine.execCommitList p tag ps s
  | .subscribe p tag ps => Sys2Proof.Machine.execSubscribe p tag ps s
  | .unsubscribe p tag ps => Sys2Proof.Machine.execUnsubscribe p tag ps s
  | .fetch p tag ps => Sys2Proof.Machine.execFetch p tag ps s
  | .send p tag ps => Sys2Proof.Machine.execSend p tag ps s
  | .setEventMask p tag ps => Sys2Proof.Machine.execSetEventMask p tag ps s
  | .countersRead p tag ps => Sys2Proof.Machine.execCountersRead p tag ps s
  | .countersClear p tag ps => Sys2Proof.Machine.execCountersClear p tag ps s

end Sys2Proof.Machine
end

