-- ==== Sys2Proof/Safety.lean ====
section
/-! DEFINITION. The words the statements are written in: when a port takes a command frame, the lease renewal and the
response of a frame taken, and what the reachable states have in common. -/

namespace Sys2Proof.Machine

/-! ### A command frame taken (R167, R168) -/

/-- Port p takes the next good frame: no soft reset is in progress, no frame is held, and the response queue has room
(R167, R174). -/
abbrev Ready (p : Port) (s : State) : Prop :=
  s.resetToReach = [] ∧ (s.ports.get p).held = none ∧ (s.ports.get p).responses.length < 4

/-- Port p's row is OPEN. -/
abbrev HasSession (p : Port) (s : State) : Prop := (s.sessions.get p).isOpen = true

/-- Port p holds the configuration right (R99). -/
abbrev HasRight (p : Port) (s : State) : Prop :=
  (s.sessions.get p).isOpen = true ∧ (s.sessions.get p).precedence = 3

/-- The lease of port p reloaded, when its row is OPEN (R86, R168). -/
def leased (p : Port) (s : State) : State :=
  if (s.sessions.get p).isOpen then
    { s with sessions := s.sessions.modify p fun r => { r with lease := some (s.now + r.leasePeriod * Config.millisecond) } }
  else s

/-- The one response of a frame taken, at the end of port p's response queue (R171). -/
def answering (p : Port) (tag : Byte) (r : Reply) (s : State) : State :=
  { s with ports := s.ports.modify p fun c => { c with responses := c.responses ++ [⟨tag, r⟩] } }

/-- The command frame of the catalogue's command on a port, as an Instr. -/
def Cmd.instr (c : Cmd) (p : Port) (tag : Byte) (ps : List Byte) : Instr :=
  match c with
  | .open_ => .openSession p tag ps | .ping => .ping p tag ps | .close => .close p tag ps
  | .claim => .claim p tag ps | .release => .release p tag ps | .queryOwner => .queryOwner p tag ps
  | .softReset => .softReset (.command p tag ps .whole)
  | .linkConfig => .linkConfig p tag ps | .linkStatus => .linkStatus p tag ps | .readFrame => .readFrame p tag ps
  | .refTable => .refTable p tag ps | .refLockout => .refLockout p tag ps | .refMode => .refMode p tag ps
  | .refForce => .refForce p tag ps | .refManual => .refManual p tag ps | .refClear => .refClear p tag ps
  | .refStatus => .refStatus p tag ps | .wclkOut => .wclkOut p tag ps
  | .readMap => .readMap p tag ps
  | .stage => .stage p tag ps | .unstage => .unstage p tag ps | .discard => .discard p tag ps
  | .stagingRead => .stagingRead p tag ps | .commit => .commit p tag ps | .cancel => .cancel p tag ps
  | .commitList => .commitList p tag ps
  | .subscribe => .subscribe p tag ps | .unsubscribe => .unsubscribe p tag ps | .fetch => .fetch p tag ps
  | .send => .send p tag ps
  | .setEventMask => .setEventMask p tag ps | .countersRead => .countersRead p tag ps
  | .countersClear => .countersClear p tag ps

/-! ### Parameter bytes (R159) -/

/-- The byte of a small number. -/
def numByte (n : Nat) : Byte := BitVec.ofNat 8 n

/-- The byte of an on-or-off field. -/
def flagByte (b : Bool) : Byte := if b then 1 else 0

/-- The byte of a row, 1 to 8. -/
def rowNumByte (r : RowIx) : Byte := BitVec.ofNat 8 (r.val + 1)

/-- The byte of a reference source. -/
def refByte : RefSource → Byte
  | .link n => numByte n
  | .wclk => 0x10
  | .empty => 0xFF

/-- The parameters of REF_MODE: the presence byte, then the fields present (R159). -/
def modeParams (rev : Option Bool) (wait limit : Option (BitVec 16)) (grade : Option Byte) : List Byte :=
  [numByte ((if rev.isSome then 1 else 0) + (if wait.isSome then 2 else 0) + (if limit.isSome then 4 else 0)
      + (if grade.isSome then 8 else 0))]
    ++ (match rev with | some v => [flagByte v] | none => [])
    ++ (match wait with | some w => bytes16 w | none => [])
    ++ (match limit with | some w => bytes16 w | none => [])
    ++ (match grade with | some g => [g] | none => [])

/-- The parameters of STAGE: destination, presence byte, then the parts present (R105, R159). -/
def stageParams (d : Dest) (source : Option (Source × BitVec 16)) (mute invert : Option Bool) : List Byte :=
  [numByte d, numByte ((if source.isSome then 1 else 0) + (if mute.isSome then 2 else 0)
      + (if invert.isSome then 4 else 0))]
    ++ (match source with | some (x, f) => sourceBytes x ++ bytes16 f | none => [])
    ++ (match mute with | some v => [flagByte v] | none => [])
    ++ (match invert with | some v => [flagByte v] | none => [])

/-! ### Sessions beginning and ending (R84, R90, R91) -/

/-- Port p's row opened with a lease, and the PEER_OPENED raised (R84). -/
def opened (p : Port) (lease : Nat) (s : State) : State :=
  let t : State := { s with
    sessions := s.sessions.modify p fun r =>
      { r with isOpen := true, number := r.number + 1, leasePeriod := lease
               lease := some (s.now + lease * Config.millisecond), mask := ⟨true, true, true, true⟩ } }
  { t with raised := s.raised ++ [⟨.sessionUnit, t.everyone, .peer .opened p⟩] }

/-- The teardown of port p's session: the row closes, its claims are released, a notice goes to four blocks, and the
PEER event is raised (R90, R91). -/
def tornDown (p : Port) (why : EndReason) (kind : PeerKind) (s : State) : State :=
  let notice : SessionEnd := ⟨p, (s.sessions.get p).number, why⟩
  let t : State := { s with
    sessions := s.sessions.modify p fun r => { r with isOpen := false, endReason := why, lease := none } }
  { t with
    claims := Tab.tabulate fun d =>
      if (s.claims.get d).map Owner.port = some p then none else s.claims.get d
    chmNotices := s.chmNotices ++ [notice]
    rslNotices := s.rslNotices ++ [notice]
    msuNotices := s.msuNotices ++ [notice]
    evuNotices := s.evuNotices ++ [notice]
    raised := s.raised ++ [⟨.sessionUnit, t.everyone, .peer kind p⟩] }

/-- The steps by which a soft reset in progress reaches every block, in order. -/
def softResetSteps (s : State) : State :=
  ResetBlock.all.foldl (fun u b => match exec (.softReset (.reach b)) u with | .next v => v | _ => u) s

/-! ### Reference, staging and counters as responses and commands see them -/

/-- The request in the slot stands: its owner port's session is open with the number it was placed under (R54). -/
abbrev stands (s : State) (q : Request) : Prop :=
  (s.sessions.get q.owner).isOpen = true ∧ (s.sessions.get q.owner).number = q.session

/-- The standing request as a response carries it: kind, row and owner, none as $00 $FF $FF (R54, R159, log 17). -/
def requestData (s : State) : List Byte :=
  match s.selector.request with
  | some q => if stands s q then [numByte q.kind.code, rowNumByte q.row, numByte q.owner] else [0x00, 0xFF, 0xFF]
  | none => [0x00, 0xFF, 0xFF]

/-- The slot and the selector state as a response carries them: kind, row and owner of the standing request, then state
and row, none as $FF (R55, R159, log 17). -/
def slotData (s : State) : List Byte :=
  requestData s ++ [numByte s.selector.state.code,
        match s.selector.state.row with | some r => rowNumByte r | none => 0xFF]

/-- The drop event of a request that a command takes out of the slot: the reason given while it stands, and OWNER_ENDED
to the ports other than its owner when its session has ended (R58, R59, log 35). -/
def dropEvent (s : State) (why : DropReason) (q : Request) : RaisedEvent :=
  if stands s q then ⟨.selector, s.everyone, .refRequestDropped q.kind q.row q.owner why⟩
  else RaisedEvent.bar q.owner ⟨.selector, s.everyone, .refRequestDropped q.kind q.row q.owner .ownerEnded⟩

/-- The drop event when a request of port p takes the slot: none when its own standing request is replaced (R55, R56,
R58). -/
def replacedBy (p : Port) (s : State) : List RaisedEvent :=
  match s.selector.request with
  | some q => if stands s q ∧ q.owner = p then [] else [dropEvent s .superseded q]
  | none => []

/-- Whether a row of this source and grade limit is present, by what its source shows (R39). -/
def sourcePresent (s : State) (source : RefSource) (limit : Grade) : Bool :=
  match source with
  | .empty => false
  | .link n => (s.receivers.get n).state == .inFrame && !(s.receivers.get n).degraded
      && decide ((s.receivers.get n).grade ≤ limit)
  | .wclk => s.selector.monitor.present

/-- What the selector makes, from state s to state t, of what its sources report in one event. A row ABSENT and now
present is loaded, QUALIFIED at once with a restore wait of 0 and else WAITING with its timer at the present moment plus
the wait; a row WAITING or QUALIFIED and no longer present is ABSENT with its timer stopped; any other row is as it was
(R39, R41). If a row has changed the target is recomputed once, after all rows and after what the event itself raised
(R45, log 26), and if none has the selector is as it was but for the monitor. -/
abbrev RowsFollowTheirSources (s t : State) : Prop :=
  (∀ r,
    let w := s.selector.table.get r
    let w' := t.selector.table.get r
    let here := sourcePresent t w.source w.gradeLimit = true
    let wait := s.selector.restoreWait
    (w.qualification = .absent → here → wait = 0 → w' = { w with qualification := .qualified, restoreTimer := none })
    ∧ (w.qualification = .absent → here → wait ≠ 0 →
        w' = { w with qualification := .waiting, restoreTimer := some (t.now + wait * Config.second) })
    ∧ (w.qualification ≠ .absent → ¬ here → w' = { w with qualification := .absent, restoreTimer := none })
    ∧ ((w.qualification = .absent ↔ ¬ here) → w' = w))
  ∧ ∃ own : List RaisedEvent, (∀ ev ∈ own, ev.source ≠ .selector)
    ∧ let v : State := { t with
        selector := { s.selector with table := t.selector.table, monitor := t.selector.monitor }
        raised := s.raised ++ own }
      (t.selector.table = s.selector.table → t = v) ∧ (t.selector.table ≠ s.selector.table → t = v.recompute)

/-- A row as REF_TABLE leaves it: the new source and grade limit, the lockout kept, and qualified anew (R41, R42). -/
def editedRow (s : State) (r : RowIx) (source : RefSource) (limit : Grade) : CandidateRow :=
  let present := sourcePresent s source limit
  let wait := s.selector.restoreWait
  { source := source, gradeLimit := limit, lockout := (s.selector.table.get r).lockout
    qualification := if present then (if wait = 0 then .qualified else .waiting) else .absent
    restoreTimer := if present ∧ wait ≠ 0 then some (s.now + wait * Config.second) else none }

/-- The selector with REF_MODE's present fields in place (R44). -/
def modeSet (rev : Option Bool) (wait limit : Option (BitVec 16)) (grade : Option Byte) (l : Selector) : Selector :=
  { l with
    revertive := rev.getD l.revertive
    restoreWait := (wait.map BitVec.toNat).getD l.restoreWait
    holdoverLimit := (limit.map BitVec.toNat).getD l.holdoverLimit
    wclkGrade := (grade.map fun g => BitVec.ofNat 3 g.toNat).getD l.wclkGrade }

/-- Port p's staging set once a stale one has been emptied (R104). -/
def freshSet (s : State) (p : Port) : Staging :=
  let t := s.staging.get p
  if t.session = none ∨ t.session = some (s.sessions.get p).number then t else ⟨[], none⟩

/-- Port p's staging set replaced. -/
def withStaging (p : Port) (t : Staging) (s : State) : State := { s with staging := s.staging.put p t }

/-- The thirteen counters of a link, in the order of R190. -/
def linkCounts (s : State) (n : Link) : List Counter :=
  let c := (s.receivers.get n).counters
  let a := s.assemblers.get n
  [c.damaged, c.misaligned, c.lossOfFrame, c.lossOfSignal, c.badSideCode, (s.stores.get n).dropSlips,
    (s.stores.get n).repeatSlips, a.stray, a.overlong, a.truncated, a.damaged, a.aborted, a.badMessage]

/-- The three counters of a port, in the order of R190. -/
def portCounts (s : State) (p : Port) : List Counter :=
  [(s.ports.get p).badFrames, (s.ports.get p).dropped, (s.mailboxes.get p).overflowCount]

/-! ### A boundary seen from the state before it -/

/-- The phase error toward row r at the boundary that ends the frame in progress (R35); the free value where the
row's source has had no reference event (log 12). -/
def phaseAt (s : State) (r : RowIx) : Int :=
  match (s.refClock r).last with
  | some t => reducePhase (s.refLength r) (((s.timing.begun + s.timing.frameLength : Nat) : Int) - (t : Int))
  | none => Config.unmeasuredPhase r (s.timing.frameCounter + 1)

/-- The error is at most 1/k of a frame of length `length` in either direction. -/
abbrev within (k : Nat) (length : Time) (e : Int) : Prop := k * e.natAbs ≤ length

/-- A record's destination is owned by the set's port with the set's session number (R121). -/
abbrev recordOwned (s : State) (x : ChangeSet) (r : ChangeRecord) : Prop :=
  s.claims.get r.dest = some ⟨x.id.port, x.session⟩

/-- The set at the head of the queue is due at the boundary that begins the next frame (R119). -/
abbrev headDue (s : State) (x : ChangeSet) : Prop := after x.due (s.timing.frameCounter + 1) = false

/-- Destination d's entry after a record of the given parts has acted on it, told by cases (R70, R71, R72, R73, R74,
R75). -/
def recordActs (r : ChangeRecord) (e e' : MapEntry) : Prop :=
  e'.mute = r.mute.getD e.mute ∧ e'.invert = r.invert.getD e.invert ∧ e'.current = e.current
    ∧ (r.source = none → e'.source = e.source ∧ e'.fade = e.fade)
    ∧ ∀ x f, r.source = some (x, f) →
        (x = e.source → e'.source = e.source ∧ e'.fade = e.fade)
        ∧ (x ≠ e.source → f = 0 → e'.source = x ∧ e'.fade = none)
        ∧ (x ≠ e.source → f ≠ 0 → e'.source = x ∧ e'.fade = some ⟨e.source, f, 0⟩)

/-- The sample a source gives in a frame, from what the stores gave at its boundary (R63). -/
def sampleOf (stores : Tab 16 Store) (x : Source) : Int :=
  match x with
  | .silent => 0
  | .slot n i =>
    match (stores.get n).current with
    | some f => (f.get i).toInt
    | none => 0

/-- The value of an entry before mute and invert: its source, or the mix of a fade (R65, R66). -/
def valueOf (stores : Tab 16 Store) (e : MapEntry) : Int :=
  match e.fade with
  | none => sampleOf stores e.source
  | some f =>
    sampleOf stores f.previous
      + ((sampleOf stores e.source - sampleOf stores f.previous) * (f.elapsed + 1)).tdiv (f.length + 1)

/-- Damage window and DEGRADED after one more frame, damaged or not: counts, then the flag, set at 16 damaged frames
and cleared by a complete window of 4,800 frames with fewer than 2 (R10, R11). -/
def windowStep (bad : Bool) (frames damage : Nat) (degraded : Bool) : Nat × Nat × Bool :=
  let d := damage + if bad then 1 else 0
  let flag := degraded || decide (16 ≤ d)
  if frames + 1 < 4800 then (frames + 1, d, flag) else (0, 0, flag && decide (2 ≤ d))

/-- A store after a frame's samples reach it: appended, a full store dropping its oldest frame as a slip (R15, R18). -/
def storeTaking (f : Samples) (e : Store) : Store :=
  if e.frames.length < 4 then { e with frames := e.frames ++ [f] }
  else { e with frames := e.frames.tail ++ [f], dropSlips := bump e.dropSlips
                slipWindow := if e.slipWindow = 0 then 4800 else e.slipWindow }

/-- The links other than n are untouched. -/
abbrev OtherLinksKept (n : Link) (s t : State) : Prop :=
  ∀ m, m ≠ n → t.receivers.get m = s.receivers.get m ∧ t.stores.get m = s.stores.get m
    ∧ t.assemblers.get m = s.assemblers.get m

/-- A MAILBOX_OVERFLOW for port p (R141). -/
def isOverflowOf (p : Port) (e : RaisedEvent) : Bool :=
  match e.audience, e.data with
  | .only q _, .mailboxOverflow _ => q == p
  | _, _ => false

/-- The MAILBOX_OVERFLOW events for port p among those raised (R141). -/
def overflowEvents (p : Port) (s : State) : List RaisedEvent := s.raised.filter (isOverflowOf p)

/-- What the side item of link n makes of its assembler and of the mailboxes, from state s to state t (R131 to R134). A
message it completes leaves the assembler IDLE; it is good when its length byte is its wire bytes less 3 and its CRC-8 is
right, and only then copied to every port whose entry for the link is present, current and admits the type: the copy
takes an empty or stale mailbox over, joins one with room, or is counted at a full one, with MAILBOX_OVERFLOW only while
the overflow flag is clear (R139, R140, R141). -/
abbrev SideItemReaches (n : Link) (item : SideItem) (s t : State) : Prop :=
  let a := ((s.assemblers.get n).item item).1
  (((s.assemblers.get n).item item).2 = none →
      t.assemblers.get n = a ∧ t.mailboxes = s.mailboxes ∧ ∀ p, overflowEvents p t = overflowEvents p s)
  ∧ ∀ wire, ((s.assemblers.get n).item item).2 = some wire →
      let good := (wire.getD 1 0).toNat + 3 = wire.length ∧ crc8 wire.dropLast = wire.getLastD 0
      (t.assemblers.get n).buffer = none
      ∧ (¬ good → t.mailboxes = s.mailboxes ∧ t.assemblers.get n = { a with badMessage := bump a.badMessage }
          ∧ ∀ p, overflowEvents p t = overflowEvents p s)
      ∧ (good → t.assemblers.get n = a
        ∧ ∀ p,
          let box := s.mailboxes.get p
          let copy : MessageRecord := ⟨n, wire.getD 0 0, (wire.drop 2).dropLast, s.timing.frameCounter⟩
          let admits := ∃ e, (s.subscriptions.get n).get p = some e ∧ (s.sessions.get p).isOpen = true
            ∧ (s.sessions.get p).number = e.session ∧ e.low ≤ copy.type ∧ copy.type ≤ e.high
          let number := (s.sessions.get p).number
          let full := admits ∧ box.session = some number ∧ 16 ≤ box.records.length
          (¬ admits → t.mailboxes.get p = box)
          ∧ (admits → box.records = [] →
              t.mailboxes.get p = { box with records := [copy], session := some number })
          ∧ (admits → box.records ≠ [] → box.session ≠ some number →
              t.mailboxes.get p
                = { box with records := [copy], session := some number, overflowFlag := false })
          ∧ (admits → box.records ≠ [] → box.session = some number → box.records.length < 16 →
              t.mailboxes.get p = { box with records := box.records ++ [copy] })
          ∧ (full → t.mailboxes.get p
              = { box with overflowCount := bump box.overflowCount, overflowFlag := true })
          ∧ (full → box.overflowFlag = false → overflowEvents p t = overflowEvents p s
              ++ [⟨.messageUnit, .only p number, .mailboxOverflow (bump box.overflowCount)⟩])
          ∧ (¬ full ∨ box.overflowFlag = true → overflowEvents p t = overflowEvents p s))

/-- The reference clock of a link after a frame that arrived at `now`: the frame is a reference event, and the interval is
the time since the one before it (R35). -/
abbrev ClockTakes (now : Time) (before after : RefClock) : Prop :=
  after.last = some now ∧ (∀ e, before.last = some e → after.interval = some (now - e))
    ∧ (before.last = none → after.interval = before.interval)

/-- The word-clock monitor's state and counts after a good interval, or after a bad or missing one (R40). -/
def monitorAfter (good : Bool) (m : WclkMonitor) : Bool × Nat × Nat :=
  match m.present, good with
  | false, true => if 32 ≤ m.goodRun + 1 then (true, 0, 0) else (false, m.goodRun + 1, m.badRun)
  | false, false => (false, 0, m.badRun)
  | true, true => (true, m.goodRun, 0)
  | true, false => if 4 ≤ m.badRun + 1 then (false, 0, 0) else (true, m.goodRun, m.badRun + 1)

/-! ### What the reachable states have in common -/

/-- The capacities of R14, R103, R111, R140, R144 and R171 hold. -/
abbrev QueuesWithinCapacity (s : State) : Prop :=
  (∀ n, (s.stores.get n).frames.length ≤ 4)
    ∧ (∀ p, (s.staging.get p).records.length ≤ 32)
    ∧ (∀ p, setsOf p s.commitQueue ≤ 2)
    ∧ (∀ p, (s.mailboxes.get p).records.length ≤ 16)
    ∧ (∀ n, (s.txQueues.get n).length ≤ 8)
    ∧ ∀ p, (s.ports.get p).responses.length ≤ 4

/-- How many frames frame d lies after frame c, negative before it (00 section 4.3). -/
abbrev framesAhead (c d : FrameNo) : Int := (d - c).toInt

/-- A commit queue at current frame c: its sets stand in due order (R115), none is due more than 480,000 frames ahead
(R112), and the set in place i, counted from 0, is overdue by at most 6 − i frames, for one set leaves at every
boundary that finds the head due (R119). -/
abbrev CommitQueueLegal (c : FrameNo) (q : List ChangeSet) : Prop :=
  (q.Pairwise fun x y => framesAhead c x.due ≤ framesAhead c y.due)
    ∧ ∀ (i : Nat) (x : ChangeSet), q[i]? = some x → (i : Int) ≤ framesAhead c x.due + 6 ∧ framesAhead c x.due ≤ 480000

/-- Every collection keeps its form: a staging set holds one record of a destination at most, and has a session number
exactly while it holds records (R103); an assembler holds 2 to 35 bytes (R130); a mailbox has a session number exactly
while it holds records (R140); the commit queue stands in due order (R115). -/
abbrev CollectionsLegal (s : State) : Prop :=
  (∀ p, ((s.staging.get p).session = none ↔ (s.staging.get p).records = [])
      ∧ (s.staging.get p).records.Pairwise fun x y => x.dest ≠ y.dest)
    ∧ (∀ n b, (s.assemblers.get n).buffer = some b → 2 ≤ b.length ∧ b.length ≤ 35)
    ∧ (∀ p, (s.mailboxes.get p).session = none ↔ (s.mailboxes.get p).records = [])
    ∧ CommitQueueLegal s.timing.frameCounter s.commitQueue

/-- One event queue is as R178 says: at most 32 records, an EVENTS_LOST record only as the last, and the 32nd place
held by an EVENTS_LOST record alone. -/
abbrev EventQueueLegal (q : List EventRecord) : Prop :=
  q.length ≤ 32 ∧ (∀ r ∈ q.dropLast, r.isLost = false) ∧ (q.length = 32 → (q.getLast?.map EventRecord.isLost) = some true)

/-- Every event queue is as R178 says. -/
abbrev EventQueuesLegal (s : State) : Prop := ∀ p, EventQueueLegal (s.events.get p)

/-- Every destination owned is owned by a port whose session is open with the number its entry records (R93). -/
abbrev ClaimsHeldByOpenSessions (s : State) : Prop :=
  ∀ d w, s.claims.get d = some w → (s.sessions.get w.port).isOpen = true ∧ (s.sessions.get w.port).number = w.session

/-- A store is IDLE exactly while its receiver is not IN_FRAME, and then holds no frame and no last read frame
(R14). -/
abbrev StoresFollowReceivers (s : State) : Prop :=
  ∀ n, ((s.stores.get n).state = .idle ↔ (s.receivers.get n).state ≠ .inFrame)
    ∧ ((s.stores.get n).state = .idle → (s.stores.get n).frames = [] ∧ (s.stores.get n).lastRead = none)

/-- A receiver IN_FRAME has a last good frame (R6, R8), and one not IN_FRAME is not DEGRADED and has grade 7 (R7, R11,
R12). -/
abbrev ReceiversLegal (s : State) : Prop :=
  ∀ n, ((s.receivers.get n).state = .inFrame → (s.receivers.get n).lastGood.isSome = true)
    ∧ ((s.receivers.get n).state ≠ .inFrame → (s.receivers.get n).degraded = false ∧ (s.receivers.get n).grade = 7)

/-- A transmitter that is not ACTIVE sends nothing (R24, R28). -/
abbrev OnlyActiveTransmittersSend (s : State) : Prop :=
  ∀ n, (s.transmitters.get n).state ≠ .active →
    (s.transmitters.get n).sending = .idle ∧ (s.transmitters.get n).line = none

/-- A row is ABSENT exactly while it is not present, its restore timer runs exactly while it is WAITING (R38, R41),
the request in the slot names a row that is not locked out (R43, R55, R56), and the selector is on a row only while
that row is not locked out and is QUALIFIED, or present under the FORCE in the slot (R45; one whose session has ended
holds the selector until the next recomputation, log 35); a holdover in progress has a beginning (R50). -/
abbrev SelectionLegal (s : State) : Prop :=
  (∀ r, (s.row r).qualification = .absent ↔ s.rowPresent r = false)
    ∧ (∀ r, (s.row r).restoreTimer.isSome = true ↔ (s.row r).qualification = .waiting)
    ∧ (∀ q, s.selector.request = some q → (s.row q.row).lockout = false)
    ∧ (∀ r, s.selector.state.row = some r → (s.row r).lockout = false
        ∧ ((s.row r).qualification = .qualified
          ∨ (s.rowPresent r = true ∧ ∃ q, s.selector.request = some q ∧ q.kind = .force ∧ q.row = r)))
    ∧ (s.selector.state = .holdover → s.selector.holdoverSince.isSome = true)

/-- A fade lies within R62: it moves between two different sources and has not reached its length, 1 to 4,095. -/
abbrev FadeLegal (e : MapEntry) : Prop :=
  ∀ f, e.fade = some f → f.previous ≠ e.source ∧ 1 ≤ f.length ∧ f.length ≤ 4095 ∧ f.elapsed < f.length

/-- A record's fade lies within R105. -/
abbrev RecordLegal (r : ChangeRecord) : Prop := ∀ x f, r.source = some (x, f) → f ≤ 4095

/-- Every fade, in the map and in records staged and committed, lies within its range (R62, R105). -/
abbrev FadesLegal (s : State) : Prop :=
  (∀ d, FadeLegal (s.activeMap.get d)) ∧ (∀ p, ∀ r ∈ (s.staging.get p).records, RecordLegal r)
    ∧ ∀ x ∈ s.commitQueue, ∀ r ∈ x.records, RecordLegal r

end Sys2Proof.Machine
end

