-- ==== Sys2Proof/Certificates/Slice0/Obligations.lean ====
section
/-! DEFINITION. The statements for the provers. Names of rules are those of spec/; "log n" is notes/assumptions/n.md. -/

open Sys2Proof Sys2Proof.Machine

/-! ### The queue of commands, and reset -/

/-- A step takes the command at the front of the queue and is its meaning on the state with the queue's rest; on an empty
queue the part idles, the model's choice (log 2). -/
def Obligations.StepTakesTheFrontCommand : Prop :=
  (∀ (c : Instr) (rest : List Instr) (s : State), s.pending = c :: rest → step s = exec c { s with pending := rest })
  ∧ ∀ s : State, s.pending = [] → step s = .next s

/-- Every command answers a next state, never a fault or a refusal, and leaves the queue of commands alone. -/
def Obligations.EveryCommandAnswersANextState : Prop :=
  ∀ (c : Instr) (s : State), ∃ t, exec c s = .next t ∧ t.pending = s.pending

/-- DEVICE_RESET brings every block to the state its rules give for device reset, from any state, and samples the
straps (R3, R10, R14, R21, R23, R24, R28, R34, R35, R36, R37, R38, R40, R44, R45, R54, R62, R82, R83, R93, R103, R113,
R115, R130, R136, R140, R144, R145, R154, R171, R178). That nothing stays on its way between blocks, and that no soft
reset stays in progress, is the model's choice (log 24). -/
def Obligations.DeviceResetLeavesTheStatedState : Prop :=
  ∀ (straps : Tab 4 Strap) (s : State), ∃ t, exec (.deviceReset straps) s = .next t
    ∧ t.timing.frameCounter = 0 ∧ t.timing.frameLength = Config.nominalPeriod
    ∧ t.timing.heldPeriod = Config.nominalPeriod ∧ t.timing.wclkEnable = false ∧ t.timing.wclkPin = false
    ∧ (∀ n, (t.receivers.get n).state = .disabled ∧ (t.receivers.get n).lastGood = none
        ∧ (t.receivers.get n).windowFrames = 0 ∧ (t.receivers.get n).windowDamage = 0
        ∧ (t.receivers.get n).degraded = false ∧ (t.receivers.get n).grade = 7
        ∧ (t.receivers.get n).clock = ⟨none, none⟩ ∧ (t.receivers.get n).counters = ⟨0, 0, 0, 0, 0⟩)
    ∧ (∀ n, (t.stores.get n).state = .idle ∧ (t.stores.get n).frames = [] ∧ (t.stores.get n).lastRead = none
        ∧ (t.stores.get n).slipWindow = 0 ∧ (t.stores.get n).dropSlips = 0 ∧ (t.stores.get n).repeatSlips = 0)
    ∧ (∀ n, (t.transmitters.get n).state = .off ∧ (t.transmitters.get n).sending = .idle
        ∧ (t.transmitters.get n).line = none)
    ∧ (∀ r, t.selector.table.get r = ⟨.empty, 7, false, .absent, none⟩)
    ∧ t.selector.state = .freeRun ∧ t.selector.lastRow = none ∧ t.selector.captureCount = 0
    ∧ t.selector.holdoverTimer = none ∧ t.selector.phase = 0 ∧ t.selector.request = none
    ∧ t.selector.revertive = true ∧ t.selector.restoreWait = 10 ∧ t.selector.holdoverLimit = 600
    ∧ t.selector.wclkGrade = 2 ∧ t.selector.monitor.present = false ∧ t.selector.monitor.goodRun = 0
    ∧ t.selector.monitor.badRun = 0 ∧ t.selector.monitor.timedFrom = none
    ∧ t.selector.monitor.clock = ⟨none, none⟩ ∧ t.transmittedGrade = 7
    ∧ (∀ d, t.activeMap.get d = ⟨.silent, false, false, none, 0⟩)
    ∧ (∀ p, t.sessions.get p
        = ⟨false, 0, 100, none, .none, ⟨true, true, true, true⟩, (t.sessions.get p).precedence⟩)
    ∧ (∀ p, ((t.sessions.get p).precedence : Nat)
        = (if (straps.get p).prec1 then 2 else 0) + (if (straps.get p).prec0 then 1 else 0))
    ∧ (∀ d, t.claims.get d = none)
    ∧ (∀ p, t.staging.get p = ⟨[], none⟩) ∧ t.commitQueue = [] ∧ (∀ p, t.commitSeq.get p = 0)
    ∧ (∀ n, t.assemblers.get n = ⟨none, 0, 0, 0, 0, 0, 0⟩) ∧ (∀ n p, (t.subscriptions.get n).get p = none)
    ∧ (∀ p, t.mailboxes.get p = ⟨[], none, false, 0⟩) ∧ (∀ n, t.txQueues.get n = []) ∧ (∀ p, t.messageIds.get p = 0)
    ∧ (∀ p, t.ports.get p = ⟨none, [], none, 0, 0⟩) ∧ (∀ p, t.events.get p = [] ∧ attentionLow t p = false)
    ∧ t.raised = [] ∧ t.chmNotices = [] ∧ t.rslNotices = [] ∧ t.msuNotices = [] ∧ t.evuNotices = []
    ∧ (∀ n, t.txNotices.get n = []) ∧ t.resetToReach = []

/-! ### The output frame boundary -/

/-- OUTPUT_FRAME_BOUNDARY begins the next frame: the counter increases by one, the boundary falls one frame length
after the last, WCLK_OUT rises if it is on, and what a boundary does not name is unchanged (R34, R37). What was raised
before it is queued first, which is all that it does to event queues and ports (log 8); the time base moves to the
boundary and never back (log 3). Both are the model's choices. -/
def Obligations.BoundaryBeginsTheNextFrame : Prop :=
  ∀ s : State, ∃ t, exec .outputFrameBoundary s = .next t
    ∧ t.timing.frameCounter = s.timing.frameCounter + 1
    ∧ t.timing.begun = s.timing.begun + s.timing.frameLength
    ∧ t.now = max s.now (s.timing.begun + s.timing.frameLength)
    ∧ t.timing.wclkEnable = s.timing.wclkEnable ∧ t.timing.wclkPin = s.timing.wclkEnable
    ∧ t.events = s.drainRaised.events ∧ t.ports = s.drainRaised.ports
    ∧ (∀ p, (t.ports.get p).responses = (s.ports.get p).responses ∧ (t.ports.get p).held = (s.ports.get p).held
        ∧ (t.ports.get p).badFrames = (s.ports.get p).badFrames ∧ (t.ports.get p).dropped = (s.ports.get p).dropped)
    ∧ { t with
        now := s.now, stores := s.stores, transmitters := s.transmitters, timing := s.timing, selector := s.selector
        activeMap := s.activeMap, commitQueue := s.commitQueue, txQueues := s.txQueues, ports := s.ports
        events := s.events, raised := s.raised, txNotices := s.txNotices } = s

/-- The read of every elastic store at a boundary (R16), after its slip window has counted down (R18): an IDLE store
and a CENTERING one with fewer than two frames give silence, CENTERING with two or more becomes RUNNING, RUNNING
gives its oldest frame, and an empty RUNNING store repeats its last read frame, a slip. -/
def Obligations.BoundaryReadsEveryElasticStore : Prop :=
  ∀ (s : State) (n : Link), ∃ t, exec .outputFrameBoundary s = .next t
    ∧ let e := s.stores.get n
      let e1 := { e with slipWindow := e.slipWindow - 1 }
      (e.state = .idle → t.stores.get n = { e1 with current := none })
      ∧ (e.state = .centering → e.frames.length < 2 → t.stores.get n = { e1 with current := none })
      ∧ (∀ f g rest, e.state = .centering → e.frames = f :: g :: rest → t.stores.get n
          = { e1 with state := .running, frames := g :: rest, lastRead := some f, current := some f })
      ∧ (∀ f rest, e.state = .running → e.frames = f :: rest → t.stores.get n
          = { e1 with frames := rest, lastRead := some f, current := some f })
      ∧ (e.state = .running → e.frames = [] → 1 < e.slipWindow → t.stores.get n
          = { e1 with current := e.lastRead, repeatSlips := bump e.repeatSlips })
      ∧ (e.state = .running → e.frames = [] → e.slipWindow ≤ 1 → t.stores.get n
          = { e1 with current := e.lastRead, repeatSlips := bump e.repeatSlips, slipWindow := 4800 }
        ∧ ⟨.store n, s.everyone, .slip n .repeated⟩ ∈ t.raised)

/-- The selector at a boundary: in LOCKED a phase error beyond 1/4 frame leads to LOCKING on the same row with count 0
(R49); in LOCKING the count increases, an error within 1/8 frame captures, and at the 200th boundary without capture
the row is loaded anew, and the target then recomputed is entered anew with REF_STATE CAPTURE_FAIL, the only REF_STATE
of the boundary (R47, R48, R52). In every case the error tested is recorded for REF_STATUS (R60). In FREE_RUN and
HOLDOVER a boundary leaves the selector alone. The frame of the error is the limited reference interval (log 10), the
tested error is the one recorded (log 14), the events listed are those of the boundary alone because earlier ones are
queued before it (log 8), and the count is kept in LOCKED (log 22). -/
def Obligations.BoundaryTestsThePhase : Prop :=
  ∀ s : State, ∃ t, exec .outputFrameBoundary s = .next t
    ∧ (s.selector.state = .freeRun ∨ s.selector.state = .holdover → t.selector = s.selector
        ∧ ∀ ev ∈ t.raised, ev.source ≠ .selector)
    ∧ ∀ r : RowIx,
      let l := { s.selector with phase := phaseReport (s.refLength r) (phaseAt s r) }
      (s.selector.state = .locked r → within 4 (s.refLength r) (phaseAt s r) → t.selector = l)
      ∧ (s.selector.state = .locked r → ¬ within 4 (s.refLength r) (phaseAt s r) →
          t.selector = { l with
            state := .locking r, lastRow := some r, captureCount := 0, holdoverTimer := none, holdoverSince := none }
          ∧ ⟨.selector, s.everyone, .refState (.locking r) (some r) .phaseLoss⟩ ∈ t.raised)
      ∧ (s.selector.state = .locking r → within 8 (s.refLength r) (phaseAt s r) →
          t.selector = { l with
            state := .locked r, lastRow := some r, captureCount := s.selector.captureCount + 1 }
          ∧ ⟨.selector, s.everyone, .refState (.locked r) (some r) .captured⟩ ∈ t.raised)
      ∧ (s.selector.state = .locking r → ¬ within 8 (s.refLength r) (phaseAt s r) →
          s.selector.captureCount + 1 < 200 →
          t.selector = { l with captureCount := s.selector.captureCount + 1 })
      ∧ (s.selector.state = .locking r → ¬ within 8 (s.refLength r) (phaseAt s r) →
          200 ≤ s.selector.captureCount + 1 →
          let wait := s.selector.restoreWait
          let row : CandidateRow := { s.selector.table.get r with
            qualification := if wait = 0 then .qualified else .waiting
            restoreTimer := if wait = 0 then none else some (t.now + wait * Config.second) }
          let u := State.withdrawUnqualified { s with selector := { l with
            captureCount := s.selector.captureCount + 1, table := s.selector.table.put r row } }
          (∀ k, u.target = some k →
            t.selector = { u.selector with
              state := .locking k, lastRow := some k, captureCount := 0, holdoverTimer := none, holdoverSince := none }
            ∧ ⟨.selector, s.everyone, .refState (.locking k) (some k) .captureFail⟩ ∈ t.raised)
          ∧ (u.target = none →
            t.selector = { u.selector with
              state := .holdover, holdoverSince := some t.now
              holdoverTimer := if s.selector.holdoverLimit = 0 then none
                else some (t.now + s.selector.holdoverLimit * Config.second) }
            ∧ ⟨.selector, s.everyone, .refState .holdover s.selector.lastRow .captureFail⟩ ∈ t.raised)
          ∧ ∀ ev ∈ t.raised, ∀ st k why, ev.data = .refState st k why → why = .captureFail)

/-- The length of the frame begun, by the selector state the boundary leaves: the nominal period in FREE_RUN, the held
period in HOLDOVER, else the limited reference interval with a correction of at most 1/256 frame against the phase
error (R35). The held period takes the limited interval when the selector is LOCKED with an error within 1/8 frame
(R36). The phase error lies within −1/2 to +1/2 frame and differs from the time since the reference event by whole
frames, whenever the row's source has had a reference event (R35). The frame of those limits is the limited reference
interval (log 10), divisions of time are truncated (log 11), and the selector tests the error before the length is
fixed (log 14). -/
def Obligations.BoundaryFixesTheFrameLength : Prop :=
  (∀ s : State, ∃ t, exec .outputFrameBoundary s = .next t
    ∧ (t.selector.state = .freeRun →
        t.timing.frameLength = 819200 ∧ t.timing.heldPeriod = s.timing.heldPeriod)
    ∧ (t.selector.state = .holdover →
        t.timing.frameLength = s.timing.heldPeriod ∧ t.timing.heldPeriod = s.timing.heldPeriod)
    ∧ ∀ r, t.selector.state = .locking r ∨ t.selector.state = .locked r →
        s.refLength r = max 815104 (min 823296 ((s.refClock r).interval.getD 819200))
        ∧ (within 256 (s.refLength r) (phaseAt s r) →
            (t.timing.frameLength : Int) = (s.refLength r : Int) - phaseAt s r)
        ∧ (¬ within 256 (s.refLength r) (phaseAt s r) → 0 < phaseAt s r →
            t.timing.frameLength = s.refLength r - s.refLength r / 256)
        ∧ (¬ within 256 (s.refLength r) (phaseAt s r) → phaseAt s r < 0 →
            t.timing.frameLength = s.refLength r + s.refLength r / 256)
        ∧ t.timing.heldPeriod
          = if t.selector.state = .locked r ∧ 8 * (phaseAt s r).natAbs ≤ s.refLength r then s.refLength r
            else s.timing.heldPeriod)
  ∧ ∀ (s : State) (r : RowIx) (e : Time), (s.refClock r).last = some e →
    -(s.refLength r : Int) ≤ 2 * phaseAt s r ∧ 2 * phaseAt s r ≤ s.refLength r
    ∧ ∃ k : Int, phaseAt s r = ((s.timing.begun + s.timing.frameLength : Nat) : Int) - e + k * s.refLength r

/-- The take of a boundary: the head of the commit queue leaves when it is due, and no other set; a set whose every
destination is owned under its session is applied with COMMIT_TAKEN, else it is rejected, with COMMIT_REJECTED naming
the first failing destination when its session is open (R119, R120, R121, R122, R123). A set applied acts in the frame
its boundary begins: the entry of each destination that exactly one of its records names becomes what R70 to R75 give,
and its sample is that of the entry so changed, negated under invert with −8,388,608 giving +8,388,607 (R68, R69,
R122). That the only Change Manager event then on its way is that of this take rests on earlier events being queued
before the boundary, the model's choice (log 8). -/
def Obligations.BoundaryTakesAtMostTheHeadSet : Prop :=
  (∀ s : State, ∃ t, exec .outputFrameBoundary s = .next t
    ∧ (s.commitQueue = [] → t.commitQueue = [])
    ∧ ∀ x rest, s.commitQueue = x :: rest →
        (¬ headDue s x → t.commitQueue = s.commitQueue ∧ ∀ ev ∈ t.raised, ev.source ≠ .changeManager)
        ∧ (headDue s x → t.commitQueue = rest
          ∧ ((∀ r ∈ x.records, recordOwned s x r) →
              ∃ before, t.raised = before ++ [⟨.changeManager, .only x.id.port x.session,
                .commitTaken x.id (s.timing.frameCounter + 1) x.records.length
                  (s.timing.frameCounter + 1 - x.due)⟩])
          ∧ ∀ pre r post, x.records = pre ++ r :: post → (∀ q ∈ pre, recordOwned s x q) → ¬ recordOwned s x r →
              ((s.sessions.get x.id.port).isOpen = true → (s.sessions.get x.id.port).number = x.session →
                ∃ before, t.raised = before ++ [⟨.changeManager, .only x.id.port x.session,
                  .commitRejected x.id (s.timing.frameCounter + 1) r.dest⟩])
              ∧ (¬ ((s.sessions.get x.id.port).isOpen = true ∧ (s.sessions.get x.id.port).number = x.session) →
                ∀ ev ∈ t.raised, ev.source ≠ .changeManager)))
  ∧ ∀ (s : State) (x : ChangeSet) (rest : List ChangeSet) (pre post : List ChangeRecord) (r : ChangeRecord),
    s.commitQueue = x :: rest → headDue s x → (∀ q ∈ x.records, recordOwned s x q) →
    x.records = pre ++ r :: post → (∀ q ∈ pre ++ post, q.dest ≠ r.dest) →
    ∃ t e, exec .outputFrameBoundary s = .next t
      ∧ recordActs r (s.activeMap.get r.dest) e
      ∧ (t.activeMap.get r.dest).source = e.source ∧ (t.activeMap.get r.dest).mute = e.mute
      ∧ (t.activeMap.get r.dest).invert = e.invert
      ∧ (e.mute = true → (t.activeMap.get r.dest).current = 0)
      ∧ (e.mute = false → e.invert = false →
          (t.activeMap.get r.dest).current = BitVec.ofInt 24 (valueOf t.stores e))
      ∧ (e.mute = false → e.invert = true → valueOf t.stores e ≠ -8388608 →
          (t.activeMap.get r.dest).current = BitVec.ofInt 24 (-valueOf t.stores e))
      ∧ (e.mute = false → e.invert = true → valueOf t.stores e = -8388608 →
          (t.activeMap.get r.dest).current = 0x7FFFFF#24)
      ∧ (e.fade = none → (t.activeMap.get r.dest).fade = none)
      ∧ ∀ f, e.fade = some f → (t.activeMap.get r.dest).fade
          = if f.elapsed + 1 < f.length then some { f with elapsed := f.elapsed + 1 } else none

/-- The samples of the frame begun, for a destination that no valid set taken at this boundary names: mute gives 0; otherwise the
source's sample or the mix of a running fade, with its fade's elapsed count advanced or the fade ended, negated under
invert with −8,388,608 giving +8,388,607 (R63, R64, R65, R66, R67, R68). -/
def Obligations.BoundaryComputesEveryDestination : Prop :=
  ∀ (s : State) (d : Dest),
    (∀ x rest, s.commitQueue = x :: rest → headDue s x → (∀ r ∈ x.records, recordOwned s x r) →
      ∀ r ∈ x.records, r.dest ≠ d) →
    ∃ t, exec .outputFrameBoundary s = .next t
      ∧ let e := s.activeMap.get d
        let e' := t.activeMap.get d
        e'.source = e.source ∧ e'.mute = e.mute ∧ e'.invert = e.invert
        ∧ (e.mute = true → e'.current = 0)
        ∧ (e.mute = false → e.invert = false → e'.current = BitVec.ofInt 24 (valueOf t.stores e))
        ∧ (e.mute = false → e.invert = true → valueOf t.stores e ≠ -8388608 →
            e'.current = BitVec.ofInt 24 (-valueOf t.stores e))
        ∧ (e.mute = false → e.invert = true → valueOf t.stores e = -8388608 → e'.current = 0x7FFFFF#24)
        ∧ (e.fade = none → e'.fade = none)
        ∧ ∀ f, e.fade = some f →
            (f.elapsed + 1 < f.length → e'.fade = some { f with elapsed := f.elapsed + 1 })
            ∧ (f.length ≤ f.elapsed + 1 → e'.fade = none)

/-- The side field a transmitter sends (R28, R29) and its completions (R30). A message whose END has been sent is
complete, its notice is handed on, and the choice is made as from IDLE; IDLE sends idle bytes or starts the head of
its queue; a message goes on by two bytes, ending with END2 or END1; ABORTING sends ABORT and becomes IDLE. -/
def Obligations.BoundaryChoosesTheSideField : Prop :=
  ∀ (s : State) (n : Link), (s.transmitters.get n).state ≠ .off →
    ∃ t f, exec .outputFrameBoundary s = .next t ∧ (t.transmitters.get n).line = some f
      ∧ let sent := (LinkFrame.sideCode f, LinkFrame.sideA f, LinkFrame.sideB f)
        (∀ done, ((s.transmitters.get n).sending = .idle ∧ done = [])
            ∨ (∃ m, (s.transmitters.get n).sending = .sending m ∧ m.lastPlaced = true
                ∧ done = [TxNotice.completion m.origin m.session m.messageId]) →
          t.txNotices.get n = s.txNotices.get n ++ done
          ∧ (s.txQueues.get n = [] →
              (t.transmitters.get n).sending = .idle ∧ sent = (0, 0, 0) ∧ t.txQueues.get n = [])
          ∧ ∀ m rest, s.txQueues.get n = m :: rest → t.txQueues.get n = rest
              ∧ sent = (1, m.wire.getD 0 0, m.wire.getD 1 0)
              ∧ (t.transmitters.get n).sending = .sending ⟨m.origin, m.session, m.messageId, m.wire, 2, false⟩)
        ∧ (∀ m, (s.transmitters.get n).sending = .sending m → m.lastPlaced = false →
          t.txQueues.get n = s.txQueues.get n ∧ t.txNotices.get n = s.txNotices.get n
          ∧ (m.nextByte + 3 ≤ m.wire.length → sent = (2, m.wire.getD m.nextByte 0, m.wire.getD (m.nextByte + 1) 0)
              ∧ (t.transmitters.get n).sending = .sending { m with nextByte := m.nextByte + 2 })
          ∧ (m.nextByte + 2 = m.wire.length → sent = (4, m.wire.getD m.nextByte 0, m.wire.getD (m.nextByte + 1) 0)
              ∧ (t.transmitters.get n).sending
                = .sending { m with nextByte := m.nextByte + 2, lastPlaced := true })
          ∧ (m.nextByte + 1 = m.wire.length → sent = (3, m.wire.getD m.nextByte 0, 0)
              ∧ (t.transmitters.get n).sending
                = .sending { m with nextByte := m.nextByte + 1, lastPlaced := true }))
        ∧ ((s.transmitters.get n).sending = .aborting →
          sent = (5, 0, 0) ∧ (t.transmitters.get n).sending = .idle ∧ t.txQueues.get n = s.txQueues.get n
            ∧ t.txNotices.get n = s.txNotices.get n)

/-! ### Receive lines -/

/-- QUALIFICATION_START, QUALIFICATION_ABANDONED, QUALIFICATION_COMPLETE (R4) and ALIGNMENT_PATTERN_FOUND (R5): the
first transition in NO_SIGNAL starts a period, a gap abandons it, 0.25 ms completed leads to SEARCH, and the pattern
found in SEARCH leads to CONFIRM with count 0, each change of state raising LINK_STATE (R9). Nothing else changes. That
the time base moves to the end of the period and never back is the model's choice (log 3). -/
def Obligations.LineActivityMovesTheReceiver : Prop :=
  ∀ (s : State) (n : Link) (r : Receiver) (pos : BitPos) (elapsed : Time), s.receivers.get n = r →
    let u := { s with now := s.now + elapsed }
    (r.state = .noSignal → r.qualifying = none → exec (.qualificationStart n elapsed) s
        = .next { u with receivers := s.receivers.put n { r with qualifying := some (s.now + elapsed) } })
    ∧ exec (.qualificationAbandoned n elapsed) s
        = .next { u with receivers := s.receivers.put n { r with qualifying := none } }
    ∧ (∀ began, r.state = .noSignal → r.qualifying = some began → exec (.qualificationComplete n) s
        = .next { s with
            now := max s.now (began + 9830400)
            receivers := s.receivers.put n { r with state := .search, qualifying := none }
            raised := s.raised ++ [⟨.receiver n, s.everyone, .linkState n .search r.degraded⟩] })
    ∧ (r.state = .search → exec (.alignmentPatternFound n pos elapsed) s
        = .next { u with
            receivers := s.receivers.put n { r with state := .confirm, position := some pos, confirmCount := 0 }
            raised := s.raised ++ [⟨.receiver n, s.everyone, .linkState n .confirm r.degraded⟩] })

/-- LOSS_OF_SIGNAL in SEARCH, CONFIRM or IN_FRAME leads to NO_SIGNAL with one count and LINK_STATE (R4, R9); from
IN_FRAME the receiver also gives up DEGRADED, its grade and its window (R7), the store goes IDLE (R14) and the
assembler abandons its message without a count (R133). Other links, and all else but the selector, are unchanged; what
had been raised stays. -/
def Obligations.LossOfSignalLeavesTheFrame : Prop :=
  ∀ (s : State) (n : Link) (r : Receiver) (elapsed : Time), s.receivers.get n = r →
    r.state = .search ∨ r.state = .confirm ∨ r.state = .inFrame →
    ∃ t, exec (.lossOfSignal n elapsed) s = .next t
      ∧ (r.state ≠ .inFrame → t.receivers.get n = { r with
            state := .noSignal, position := none
            counters := { r.counters with lossOfSignal := bump r.counters.lossOfSignal } }
          ∧ t.stores.get n = s.stores.get n ∧ t.assemblers.get n = s.assemblers.get n)
      ∧ (r.state = .inFrame → t.receivers.get n = { r with
            state := .noSignal, position := none, degraded := false, grade := 7, windowFrames := 0, windowDamage := 0
            counters := { r.counters with lossOfSignal := bump r.counters.lossOfSignal } }
          ∧ t.stores.get n = { s.stores.get n with state := .idle, frames := [], lastRead := none }
          ∧ t.assemblers.get n = { s.assemblers.get n with buffer := none })
      ∧ ⟨.receiver n, s.everyone, .linkState n .noSignal (t.receivers.get n).degraded⟩ ∈ t.raised
      ∧ (∃ more, t.raised = s.raised ++ more)
      ∧ OtherLinksKept n s t
      ∧ { t with
          now := s.now, receivers := s.receivers, stores := s.stores, assemblers := s.assemblers
          selector := s.selector, raised := s.raised } = s

/-- CONFIRM_FRAME_ARRIVAL at the candidate position (R6): a frame with the alignment word and a good CRC counts, a miss
leads back to SEARCH, and the third confirming frame enters IN_FRAME and is its first good frame, the store having
been emptied and set CENTERING before it is appended (R8, R10, R12, R14, R15). A side state code of 6 or 7 is counted and
the side item is handed to the assembler (R13); the frame is a reference event of the link (log 13). -/
def Obligations.ThirdConfirmingFrameEntersInFrame : Prop :=
  ∀ (s : State) (n : Link) (r : Receiver) (pos : BitPos) (f : LinkFrame) (elapsed : Time), s.receivers.get n = r →
    let u := { s with now := s.now + elapsed }
    r.state = .confirm → r.position = some pos →
    (¬ (LinkFrame.aligned f = true ∧ LinkFrame.crcGood f = true) → exec (.confirmFrameArrival n pos f elapsed) s
        = .next { u with
            receivers := s.receivers.put n { r with state := .search, position := none }
            raised := s.raised ++ [⟨.receiver n, s.everyone, .linkState n .search r.degraded⟩] })
    ∧ (LinkFrame.aligned f = true → LinkFrame.crcGood f = true → r.confirmCount < 2 →
        exec (.confirmFrameArrival n pos f elapsed) s
          = .next { u with receivers := s.receivers.put n { r with confirmCount := r.confirmCount + 1 } })
    ∧ (LinkFrame.aligned f = true → LinkFrame.crcGood f = true → 2 ≤ r.confirmCount →
        ∃ t, exec (.confirmFrameArrival n pos f elapsed) s = .next t
          ∧ (t.receivers.get n).state = .inFrame ∧ (t.receivers.get n).position = some pos
          ∧ (t.receivers.get n).missCount = 0
          ∧ (t.receivers.get n).windowFrames = 1 ∧ (t.receivers.get n).windowDamage = 0
          ∧ (t.receivers.get n).lastGood = some ⟨LinkFrame.samples f, LinkFrame.grade f, LinkFrame.sideCode f,
              LinkFrame.sideA f, LinkFrame.sideB f, s.timing.frameCounter⟩
          ∧ (t.receivers.get n).grade = LinkFrame.grade f
          ∧ (t.receivers.get n).counters = { r.counters with
              badSideCode := if (LinkFrame.sideCode f).toNat < 6 then r.counters.badSideCode
                else bump r.counters.badSideCode }
          ∧ ClockTakes (s.now + elapsed) r.clock (t.receivers.get n).clock
          ∧ SideItemReaches n (goodItem f) s t
          ∧ t.stores.get n
            = { s.stores.get n with state := .centering, frames := [LinkFrame.samples f], lastRead := none }
          ∧ ⟨.receiver n, s.everyone, .linkState n .inFrame r.degraded⟩ ∈ t.raised
          ∧ (∃ more, t.raised = s.raised ++ more)
          ∧ OtherLinksKept n s t
          ∧ { t with
              now := s.now, receivers := s.receivers, stores := s.stores, assemblers := s.assemblers
              mailboxes := s.mailboxes, selector := s.selector, raised := s.raised } = s)

/-- FRAME_ARRIVAL of a good frame in IN_FRAME: no misses, the last good frame and the grade are the frame's, the window
counts one good frame (R7, R8, R10, R11, R12), a side state code of 6 or 7 is counted (R13), the store takes the
samples (R15), the frame is a reference event of the link (R35), and LINK_STATE reports a change of DEGRADED (R11). -/
def Obligations.GoodFrameIsTakenWhole : Prop :=
  ∀ (s : State) (n : Link) (r : Receiver) (pos : BitPos) (f : LinkFrame) (elapsed : Time), s.receivers.get n = r →
    r.state = .inFrame → r.position = some pos → LinkFrame.aligned f = true → LinkFrame.crcGood f = true →
    ∃ t, exec (.frameArrival n pos f elapsed) s = .next t
      ∧ (t.receivers.get n).state = .inFrame ∧ (t.receivers.get n).position = some pos
      ∧ (t.receivers.get n).missCount = 0
      ∧ (t.receivers.get n).lastGood = some ⟨LinkFrame.samples f, LinkFrame.grade f, LinkFrame.sideCode f,
          LinkFrame.sideA f, LinkFrame.sideB f, s.timing.frameCounter⟩
      ∧ (t.receivers.get n).grade = LinkFrame.grade f
      ∧ ((t.receivers.get n).windowFrames, (t.receivers.get n).windowDamage, (t.receivers.get n).degraded)
        = windowStep false r.windowFrames r.windowDamage r.degraded
      ∧ (t.receivers.get n).counters = { r.counters with
          badSideCode := if (LinkFrame.sideCode f).toNat < 6 then r.counters.badSideCode
            else bump r.counters.badSideCode }
      ∧ ClockTakes (s.now + elapsed) r.clock (t.receivers.get n).clock
      ∧ t.stores.get n = storeTaking (LinkFrame.samples f) (s.stores.get n)
      ∧ ((s.stores.get n).frames.length ≥ 4 → (s.stores.get n).slipWindow = 0 →
          ⟨.store n, s.everyone, .slip n .dropped⟩ ∈ t.raised)
      ∧ ((t.receivers.get n).degraded ≠ r.degraded →
          ⟨.receiver n, s.everyone, .linkState n .inFrame (t.receivers.get n).degraded⟩ ∈ t.raised)
      ∧ (∃ more, t.raised = s.raised ++ more)
      ∧ OtherLinksKept n s t
      ∧ { t with
          now := s.now, receivers := s.receivers, stores := s.stores, assemblers := s.assemblers
          mailboxes := s.mailboxes, selector := s.selector, raised := s.raised } = s

/-- FRAME_ARRIVAL of a damaged frame, or of one of the first three misaligned frames in a row, is concealed: the last
good frame and the grade stay, the slots of the last good frame go to the store, a full one with SLIP when its window is
closed (R18), the window counts a damaged frame, and each kind has its own counter (R7, R8, R10, R12, R15, R21). The frame
is a reference event of the link whatever its class (R35). -/
def Obligations.DamagedAndMisalignedFramesAreConcealed : Prop :=
  ∀ (s : State) (n : Link) (r : Receiver) (pos : BitPos) (f : LinkFrame) (g : GoodFrame) (elapsed : Time), s.receivers.get n = r →
    r.state = .inFrame → r.position = some pos → r.lastGood = some g →
    (LinkFrame.aligned f = true ∧ LinkFrame.crcGood f = false) ∨ (LinkFrame.aligned f = false ∧ r.missCount < 3) →
    ∃ t, exec (.frameArrival n pos f elapsed) s = .next t
      ∧ (t.receivers.get n).state = .inFrame ∧ (t.receivers.get n).position = some pos
      ∧ (t.receivers.get n).missCount = (if LinkFrame.aligned f then 0 else r.missCount + 1)
      ∧ (t.receivers.get n).lastGood = some g ∧ (t.receivers.get n).grade = r.grade
      ∧ ((t.receivers.get n).windowFrames, (t.receivers.get n).windowDamage, (t.receivers.get n).degraded)
        = windowStep true r.windowFrames r.windowDamage r.degraded
      ∧ (t.receivers.get n).counters = (if LinkFrame.aligned f
          then { r.counters with damaged := bump r.counters.damaged }
          else { r.counters with misaligned := bump r.counters.misaligned })
      ∧ ClockTakes (s.now + elapsed) r.clock (t.receivers.get n).clock
      ∧ t.stores.get n = storeTaking g.slots (s.stores.get n)
      ∧ ((s.stores.get n).frames.length ≥ 4 → (s.stores.get n).slipWindow = 0 →
          ⟨.store n, s.everyone, .slip n .dropped⟩ ∈ t.raised)
      ∧ ((t.receivers.get n).degraded ≠ r.degraded →
          ⟨.receiver n, s.everyone, .linkState n .inFrame (t.receivers.get n).degraded⟩ ∈ t.raised)
      ∧ (∃ more, t.raised = s.raised ++ more)
      ∧ ((s.assemblers.get n).buffer = none → t.assemblers.get n = s.assemblers.get n)
      ∧ ((s.assemblers.get n).buffer ≠ none → t.assemblers.get n
          = { s.assemblers.get n with buffer := none, damaged := bump (s.assemblers.get n).damaged })
      ∧ OtherLinksKept n s t
      ∧ { t with
          now := s.now, receivers := s.receivers, stores := s.stores, assemblers := s.assemblers
          selector := s.selector, raised := s.raised } = s

/-- The fourth misaligned frame in a row is loss of frame: the receiver enters SEARCH with nothing appended, both
counters count, and what leaving IN_FRAME clears is cleared, both window counts with it (R7, R10, R14, R133). The frame
is a reference event of the link (R35). -/
def Obligations.FourthMisalignedFrameIsLossOfFrame : Prop :=
  ∀ (s : State) (n : Link) (r : Receiver) (pos : BitPos) (f : LinkFrame) (elapsed : Time), s.receivers.get n = r →
    r.state = .inFrame → r.position = some pos → LinkFrame.aligned f = false → 3 ≤ r.missCount →
    ∃ t, exec (.frameArrival n pos f elapsed) s = .next t
      ∧ (t.receivers.get n).state = .search ∧ (t.receivers.get n).position = none
      ∧ (t.receivers.get n).degraded = false ∧ (t.receivers.get n).grade = 7
      ∧ (t.receivers.get n).windowFrames = 0 ∧ (t.receivers.get n).windowDamage = 0
      ∧ (t.receivers.get n).lastGood = r.lastGood
      ∧ (t.receivers.get n).counters = { r.counters with
          misaligned := bump r.counters.misaligned, lossOfFrame := bump r.counters.lossOfFrame }
      ∧ ClockTakes (s.now + elapsed) r.clock (t.receivers.get n).clock
      ∧ t.stores.get n = { s.stores.get n with state := .idle, frames := [], lastRead := none }
      ∧ t.assemblers.get n = { s.assemblers.get n with buffer := none }
      ∧ ⟨.receiver n, s.everyone, .linkState n .search false⟩ ∈ t.raised
      ∧ (∃ more, t.raised = s.raised ++ more)
      ∧ OtherLinksKept n s t
      ∧ { t with
          now := s.now, receivers := s.receivers, stores := s.stores, assemblers := s.assemblers
          selector := s.selector, raised := s.raised } = s

/-- What an assembler does with each item, IDLE (R131) and ASSEMBLING (R132, R133). A good frame in IN_FRAME hands its side
item to the link's assembler, of codes 0 to 5 that of the code with the two side bytes, of codes 6 and 7 ABORT (R13); the
message it completes leaves the assembler IDLE, is good when its length byte is its wire bytes less 3 and its CRC-8 is
right, and only then reaches mailboxes: of every port whose entry for the link is present, current and admits the type,
the copy taking an empty or stale mailbox over, joining one with room, or being counted at a full one, with one
MAILBOX_OVERFLOW while the overflow flag is clear and none while it is set (R134, R139, R140, R141). -/
def Obligations.AssemblersHandMessagesToSubscribers : Prop :=
  (∀ (a : Assembler) (x y : Byte),
    (a.buffer = none →
      a.item (.code .start x y) = ({ a with buffer := some [x, y] }, none)
      ∧ (∀ c, c = .cont ∨ c = .end1 ∨ c = .end2 → a.item (.code c x y) = ({ a with stray := bump a.stray }, none))
      ∧ (∀ c, c = .idle ∨ c = .abort → a.item (.code c x y) = (a, none))
      ∧ a.item .damaged = (a, none) ∧ a.item .leaving = (a, none))
    ∧ ∀ buf, a.buffer = some buf →
      (buf.length + 2 ≤ 35 → a.item (.code .cont x y) = ({ a with buffer := some (buf ++ [x, y]) }, none)
        ∧ a.item (.code .end2 x y) = ({ a with buffer := none }, some (buf ++ [x, y])))
      ∧ (buf.length + 1 ≤ 35 → a.item (.code .end1 x y) = ({ a with buffer := none }, some (buf ++ [x])))
      ∧ (35 < buf.length + 2 → a.item (.code .cont x y) = ({ a with buffer := none, overlong := bump a.overlong }, none)
        ∧ a.item (.code .end2 x y) = ({ a with buffer := none, overlong := bump a.overlong }, none))
      ∧ (35 < buf.length + 1 → a.item (.code .end1 x y) = ({ a with buffer := none, overlong := bump a.overlong }, none))
      ∧ a.item (.code .start x y) = ({ a with buffer := some [x, y], truncated := bump a.truncated }, none)
      ∧ a.item (.code .idle x y) = ({ a with buffer := none, truncated := bump a.truncated }, none)
      ∧ a.item .damaged = ({ a with buffer := none, damaged := bump a.damaged }, none)
      ∧ a.item (.code .abort x y) = ({ a with buffer := none, aborted := bump a.aborted }, none)
      ∧ a.item .leaving = ({ a with buffer := none }, none))
  ∧ (∀ f : LinkFrame,
      let code := (LinkFrame.sideCode f).toNat
      (∀ c, [SideCode.idle, .start, .cont, .end1, .end2, .abort][code]? = some c →
          goodItem f = .code c (LinkFrame.sideA f) (LinkFrame.sideB f))
      ∧ (6 ≤ code → ∃ x y, goodItem f = .code .abort x y))
  ∧ ∀ (s : State) (n : Link) (pos : BitPos) (f : LinkFrame) (elapsed : Time),
    (s.receivers.get n).state = .inFrame → (s.receivers.get n).position = some pos →
    LinkFrame.aligned f = true → LinkFrame.crcGood f = true →
    ∃ t, exec (.frameArrival n pos f elapsed) s = .next t ∧ SideItemReaches n (goodItem f) s t

/-! ### Word clock, timers and the selector -/

/-- WCLK_RISING_EDGE and WCLK_MISSING_INTERVAL at the word-clock monitor (R40): nothing is timed before the first edge;
an interval of 0.995 to 1.005 frame lengths is good; an edge is a reference event (R35). Each changes the selector
and what it raises, and nothing else but the time base. Timing late edges as bad, truncation, and a time base that
moves to the moment of a missing interval and never back are the model's choices (logs 15, 11 and 3). -/
def Obligations.WordClockMonitorTimesTheEdges : Prop :=
  ∀ (s : State) (m : WclkMonitor) (elapsed now : Time),
    s.selector.monitor = m → s.now + elapsed = now →
    (∃ t, exec (.wclkRisingEdge elapsed) s = .next t ∧ t.now = now
      ∧ t.selector.monitor.timedFrom = some now ∧ t.selector.monitor.clock.last = some now
      ∧ (∀ e, m.clock.last = some e → t.selector.monitor.clock.interval = some (now - e))
      ∧ (m.timedFrom = none → (t.selector.monitor.present, t.selector.monitor.goodRun, t.selector.monitor.badRun)
          = (m.present, m.goodRun, m.badRun))
      ∧ (∀ began, m.timedFrom = some began →
          (t.selector.monitor.present, t.selector.monitor.goodRun, t.selector.monitor.badRun)
            = monitorAfter (decide (199 * s.timing.frameLength ≤ 200 * (now - began)
                ∧ 200 * (now - began) ≤ 201 * s.timing.frameLength)) m)
      ∧ { t with now := s.now, selector := s.selector, raised := s.raised } = s)
    ∧ ∀ began, m.timedFrom = some began →
        ∃ t, exec .wclkMissingInterval s = .next t
          ∧ t.now = max s.now (began + 201 * s.timing.frameLength / 200)
          ∧ t.selector.monitor.timedFrom = some (began + 201 * s.timing.frameLength / 200)
          ∧ t.selector.monitor.clock = m.clock
          ∧ (t.selector.monitor.present, t.selector.monitor.goodRun, t.selector.monitor.badRun)
            = monitorAfter false m
          ∧ { t with now := s.now, selector := s.selector, raised := s.raised } = s

/-- RESTORE_TIMER_EXPIRY makes a WAITING row QUALIFIED with a recomputation of the target (R41, R45);
HOLDOVER_TIMER_EXPIRY takes HOLDOVER to FREE_RUN with REF_STATE (R50, R52). That the time base moves to the timer's end
and never back is the model's choice (log 3).
Where every row's qualification is true to its presence, as every step keeps it, FRAME_ARRIVAL, CONFIRM_FRAME_ARRIVAL,
LOSS_OF_SIGNAL, WCLK_RISING_EDGE, WCLK_MISSING_INTERVAL and the receive part of LINK_CONFIG make of each row what R41
gives: a row that becomes present WAITING with its timer at the present moment plus the restore wait, or QUALIFIED at
once when the wait is 0; a row that stops being present ABSENT with its timer stopped; any other as it was (R39). One
recomputation of the target follows when a row has changed, and none, the selector left as it was, when none has (R45;
one for several rows is the model's reading, log 26). -/
def Obligations.SelectorTimersRunOut : Prop :=
  (∀ (s : State) (r : RowIx) (deadline : Time),
    ((s.selector.table.get r).qualification = .waiting → (s.selector.table.get r).restoreTimer = some deadline →
      exec (.restoreTimerExpiry r) s = .next (State.recompute { s with
        now := max s.now deadline
        selector := { s.selector with
          table := s.selector.table.put r
            { s.selector.table.get r with qualification := .qualified, restoreTimer := none } } }))
    ∧ (s.selector.state = .holdover → s.selector.holdoverTimer = some deadline →
      exec .holdoverTimerExpiry s = .next { s with
        now := max s.now deadline
        selector := { s.selector with
          state := .freeRun, lastRow := none, holdoverTimer := none, holdoverSince := none }
        raised := s.raised ++ [⟨.selector, s.everyone, .refState .freeRun none .holdoverExpired⟩] }))
  ∧ ∀ (s : State) (n : Link) (pos : BitPos) (f : LinkFrame) (elapsed : Time),
    (∀ r, (s.row r).qualification = .absent ↔ s.rowPresent r = false) →
    (∀ c, c = Instr.frameArrival n pos f elapsed ∨ c = .confirmFrameArrival n pos f elapsed ∨ c = .lossOfSignal n elapsed
        ∨ c = .wclkRisingEdge elapsed ∨ c = .wclkMissingInterval →
      ∃ t, exec c s = .next t ∧ RowsFollowTheirSources s t)
    ∧ ∀ (p : Port) (tag : Byte) (rx tx : Bool), Ready p s → HasRight p s →
      ∃ t, exec (.linkConfig p tag [numByte n, flagByte rx, flagByte tx]) s = .next (answering p tag ⟨.ok, []⟩ t)
        ∧ RowsFollowTheirSources s t

/-- What a recomputation of the target names (R46), an empty slot or a standing request given: under FORCE its row while present, else none; under MANUAL its row
while QUALIFIED, else the request is withdrawn with NOT_QUALIFIED; with no request the lowest-numbered row that is
QUALIFIED and not locked out, or, not revertive, the current row while it is both. The moves on it (R47): no target
leaves FREE_RUN and HOLDOVER as they are and takes LOCKING and LOCKED to HOLDOVER with its timer loaded; a target other
than the current row leads to LOCKING with capture count 0 and the holdover timer stopped; every entry raises REF_STATE
(R52). -/
def Obligations.RecomputationNamesTheTargetAndMoves : Prop :=
  (∀ s : State,
    let free (u : State) (k : Option RowIx) : Prop :=
      ((s.selector.revertive = false ∧ ∃ j, s.selector.state.row = some j ∧ s.eligible j = true) →
          k = s.selector.state.row)
      ∧ (¬ (s.selector.revertive = false ∧ ∃ j, s.selector.state.row = some j ∧ s.eligible j = true) →
          (∀ j, k = some j → s.eligible j = true ∧ ∀ i, i < j → s.eligible i = false)
          ∧ (k = none → ∀ j, s.eligible j = false))
      ∧ s.withdrawUnqualified = u ∧ u.target = k ∧ s.recompute = u.moveTo k
    let names (k : Option RowIx) : Prop := s.withdrawUnqualified = s ∧ s.target = k ∧ s.recompute = s.moveTo k
    (s.selector.request = none → ∃ k, free s k)
    ∧ ∀ q, s.selector.request = some q → stands s q →
        (q.kind = .force → names (if s.rowPresent q.row then some q.row else none))
        ∧ (q.kind = .manual → (s.row q.row).qualification = .qualified → names (some q.row))
        ∧ (q.kind = .manual → (s.row q.row).qualification ≠ .qualified →
            ∃ k, free { s with
              selector := { s.selector with request := none }
              raised := s.raised
                ++ [⟨.selector, s.everyone, .refRequestDropped .manual q.row q.owner .notQualified⟩] } k))
  ∧ ∀ (s : State) (k : RowIx),
    let toLocking := { s with
      selector := { s.selector with
        state := .locking k, lastRow := some k, captureCount := 0, holdoverTimer := none, holdoverSince := none }
      raised := s.raised ++ [⟨.selector, s.everyone, .refState (.locking k) (some k) .selected⟩] }
    let toHoldover := { s with
      selector := { s.selector with
        state := .holdover, holdoverSince := some s.now
        holdoverTimer := if s.selector.holdoverLimit = 0 then none
          else some (s.now + s.selector.holdoverLimit * Config.second) }
      raised := s.raised ++ [⟨.selector, s.everyone, .refState .holdover s.selector.lastRow .targetLost⟩] }
    (s.selector.state = .freeRun ∨ s.selector.state = .holdover → s.moveTo none = s ∧ s.moveTo (some k) = toLocking)
    ∧ ∀ r, s.selector.state = .locking r ∨ s.selector.state = .locked r →
        s.moveTo none = toHoldover ∧ (r = k → s.moveTo (some k) = s) ∧ (r ≠ k → s.moveTo (some k) = toLocking)

/-! ### What one block takes from another -/

/-- Each block takes the oldest session-end notice of a port: the Change Manager empties the port's staging set and
removes its sets of the ended session (R125), the Reference Selector withdraws its request with OWNER_ENDED (R59), the
Message Unit drops its entries, mailbox and queued messages (R150), the Event Unit its records, a transaction that has
one of them as its item being marked (R162, R186); what carries another session number stays. Nothing else changes. The
OWNER_ENDED reaches the other ports alone, also when the port has opened a new session (R59, R183, log 30), which a
REF_STATE of the recomputation does reach; which of two notices of a port comes first is log 7. Before its notice is taken a request of an ended session
stands no more, and a recomputation names the target that an empty slot gives (R54; log 35). -/
def Obligations.SessionEndNoticesClearTheEndedSession : Prop :=
  (∀ (s : State) (q : Request), s.selector.request = some q → ¬ stands s q →
    let v := State.recompute { s with selector := { s.selector with request := none } }
    s.recompute = { v with selector := { v.selector with request := some q } })
  ∧ ∀ (s : State) (p : Port) (n : SessionEnd) (pre post : List SessionEnd), n.port = p → (∀ x ∈ pre, x.port ≠ p) →
    (s.chmNotices = pre ++ n :: post → exec (.chmSessionEndNotice p) s = .next { s with
        chmNotices := pre ++ post
        staging := s.staging.modify p fun t => if t.session = some n.session then ⟨[], none⟩ else t
        commitQueue := s.commitQueue.filter fun x => !(x.id.port == p && x.session == n.session) })
    ∧ (s.rslNotices = pre ++ n :: post →
        (∀ q, s.selector.request = some q → q.owner = p → q.session = n.session →
          let ended : RaisedEvent := ⟨.selector, s.everyone, .refRequestDropped q.kind q.row p .ownerEnded⟩
          exec (.rslSessionEndNotice p) s = .next (State.recompute { s with
            rslNotices := pre ++ post
            selector := { s.selector with request := none }
            raised := s.raised ++ [ended.bar p] })
          ∧ ∀ x, receives x (ended.bar p) p = false)
        ∧ ((∀ q, s.selector.request = some q → ¬ (q.owner = p ∧ q.session = n.session)) →
          exec (.rslSessionEndNotice p) s = .next { s with rslNotices := pre ++ post }))
    ∧ (s.msuNotices = pre ++ n :: post → exec (.msuSessionEndNotice p) s = .next { s with
        msuNotices := pre ++ post
        subscriptions := s.subscriptions.map fun t => t.modify p fun e => e.filter fun x => x.session ≠ n.session
        mailboxes := s.mailboxes.modify p fun m =>
          if m.session = some n.session then { m with records := [], session := none, overflowFlag := false } else m
        txQueues := s.txQueues.map fun q => q.filter fun m => !(m.origin == p && m.session == n.session) })
    ∧ (s.evuNotices = pre ++ n :: post → exec (.evuSessionEndNotice p) s = .next { s with
        evuNotices := pre ++ post
        events := s.events.modify p fun q => q.filter fun r => r.session != n.session
        ports := s.ports.modify p
          (PortState.loseEvent (headRemoved (fun r => r.session != n.session) (s.events.get p))) })

/-- COMPLETION_NOTICE raises MSG_SENT (R147), DISCARD_NOTICE raises MSG_DISCARDED, and DISABLE_NOTICE flushes the link's
queue with MSG_DISCARDED for each message in order (R148), each event only when the originator's session is open with
the recorded number. Nothing else changes. -/
def Obligations.TransmitterNoticesReportMessages : Prop :=
  ∀ (s : State) (n : Link) (rest : List TxNotice) (p : Port) (k : SessionNo) (id : BitVec 16),
    (s.txNotices.get n = .completion p k id :: rest → exec (.completionNotice n) s = .next { s with
        txNotices := s.txNotices.put n rest
        raised := s.raised
          ++ if (s.sessions.get p).isOpen = true ∧ (s.sessions.get p).number = k
            then [⟨.messageUnit, .only p k, .msgSent id⟩] else [] })
    ∧ (s.txNotices.get n = .discard p k id :: rest → exec (.discardNotice n) s = .next { s with
        txNotices := s.txNotices.put n rest
        raised := s.raised
          ++ if (s.sessions.get p).isOpen = true ∧ (s.sessions.get p).number = k
            then [⟨.messageUnit, .only p k, .msgDiscarded id⟩] else [] })
    ∧ (s.txNotices.get n = .disable :: rest → exec (.disableNotice n) s = .next { s with
        txNotices := s.txNotices.put n rest
        txQueues := s.txQueues.put n []
        raised := s.raised ++ (s.txQueues.get n).flatMap fun m =>
          if (s.sessions.get m.origin).isOpen = true ∧ (s.sessions.get m.origin).number = m.session
          then [⟨.messageUnit, .only m.origin m.session, .msgDiscarded m.messageId⟩] else [] })

/-- The ports that receive a copy of an event (R183): for a broadcast event open sessions whose mask holds its class, the
port a PEER event names left out, and a port barred from it left out, which is how an event raised before a port's next
OPEN after a soft reset, or the OWNER_ENDED of its own request, does not reach it (R59, R101, logs 25 and 30); for an
addressed event the one port named, when its session is open under the number the event is about (R92, R126, log 25).
RAISED_EVENT_QUEUING takes the oldest event of a block (log 8) and queues a stamped copy for each of them: stale records
leave first; an EVENTS_LOST record held counts the copy; fewer than 31 records take it at the end; at 31 it becomes an
EVENTS_LOST record of count 1 (R179, R180, R181, R182). Nothing but the queues changes, and of a receiving port only the
mark that its chosen event has gone (R162). -/
def Obligations.RaisedEventIsQueuedForItsPorts : Prop :=
  (∀ (s : State) (p : Port) (b : EventSource),
    let row := s.sessions.get p
    (row.isOpen = false → ∀ a d, receives s ⟨b, a, d⟩ p = false)
    ∧ (row.isOpen = true →
      (∀ q number d, receives s ⟨b, .only q number, d⟩ p = true ↔ q = p ∧ number = row.number)
      ∧ ∀ barred,
        (p ∈ barred → ∀ d, receives s ⟨b, .all barred, d⟩ p = false)
        ∧ (p ∉ barred →
          (∀ k n, receives s ⟨b, .all barred, .peer k n⟩ p = true ↔ row.mask.peer = true ∧ p ≠ n)
          ∧ (∀ n st g, receives s ⟨b, .all barred, .linkState n st g⟩ p = row.mask.link)
          ∧ (∀ n k, receives s ⟨b, .all barred, .slip n k⟩ p = row.mask.slip)
          ∧ (∀ st r y, receives s ⟨b, .all barred, .refState st r y⟩ p = row.mask.ref)
          ∧ ∀ k r o y, receives s ⟨b, .all barred, .refRequestDropped k r o y⟩ p = row.mask.ref)))
  ∧ ∀ (s : State) (ev : RaisedEvent) (pre post : List RaisedEvent),
    s.raised = pre ++ ev :: post → (∀ x ∈ pre, x.source ≠ ev.source) →
    ∃ t, exec (.raisedEventQueuing ev.source) s = .next t
      ∧ t.raised = pre ++ post
      ∧ (∀ p,
          let number := (s.sessions.get p).number
          let kept := (s.events.get p).filter fun r => r.session == number
          (receives s ev p = false → t.events.get p = s.events.get p ∧ t.ports.get p = s.ports.get p)
          ∧ (receives s ev p = true → t.ports.get p
              = (s.ports.get p).loseEvent (headRemoved (fun r => r.session == number) (s.events.get p)))
          ∧ (receives s ev p = true → (∃ r ∈ kept, r.isLost = true) → t.events.get p = kept.map EventRecord.countLost)
          ∧ (receives s ev p = true → (∀ r ∈ kept, r.isLost = false) → kept.length < 31 →
              t.events.get p = kept ++ [⟨ev.data, s.timing.frameCounter, number⟩])
          ∧ (receives s ev p = true → (∀ r ∈ kept, r.isLost = false) → 31 ≤ kept.length →
              t.events.get p = kept ++ [⟨.eventsLost 1, s.timing.frameCounter, number⟩]))
      ∧ { t with raised := s.raised, events := s.events, ports := s.ports } = s

/-- A counter counts by one up to 65,535 and stays there (R191); so does the count of an EVENTS_LOST record, which keeps
its frame and session number (R181). -/
def Obligations.CountsSaturateAt65535 : Prop :=
  (∀ (c : BitVec 16) (f : FrameNo) (k : SessionNo),
    EventRecord.countLost ⟨.eventsLost c, f, k⟩
      = ⟨.eventsLost (if c.toNat < 65535 then BitVec.ofNat 16 (c.toNat + 1) else c), f, k⟩)
  ∧ ∀ c : Counter, (c.toNat < 65535 → (bump c).toNat = c.toNat + 1) ∧ (c.toNat = 65535 → bump c = c)

/-! ### Control ports -/

/-- The outbound frames (R156): sync, kind, tag or event code, status, length, data and CRC-8; an IDLE frame is the six
bytes given; after the frame every byte is $00. The status codes are those of R157, the event kind codes those of R158
and the kind-specific data those of R189. The CRC-8 starts at $00 and takes each byte in eight steps of the polynomial
x^8 + x^2 + x + 1, most significant bit first; over $31 to $39 it gives $F4 (R2). -/
def Obligations.OutboundFramesHaveTheirLayout : Prop :=
  (let step (c : Byte) : Byte := (c <<< 1) ^^^ (if c.getLsbD 7 then 0x07 else 0x00)
  crc8 [] = 0x00
  ∧ (∀ (bs : List Byte) (b : Byte),
      crc8 (bs ++ [b]) = step (step (step (step (step (step (step (step (crc8 bs ^^^ b)))))))))
  ∧ crc8 [0x31, 0x32, 0x33, 0x34, 0x35, 0x36, 0x37, 0x38, 0x39] = 0xF4)
  ∧ (OutItem.idle.frame = [0x5C, 0x00, 0x00, 0x00, 0x00, 0x6C]
  ∧ (∀ r : Response, r.reply.data.length ≤ 124 →
      let body := [0x5C, 0x01, r.tag, r.reply.status.code, BitVec.ofNat 8 r.reply.data.length] ++ r.reply.data
      (OutItem.response r).frame = body ++ [crc8 body])
  ∧ (∀ e : EventRecord,
      let data := bytes32 e.frame ++ [e.session] ++ e.data.bytes
      let body := [0x5C, 0x02, e.data.code, 0x00, BitVec.ofNat 8 data.length] ++ data
      (OutItem.event e).frame = body ++ [crc8 body] ∧ (OutItem.event e).frame.length ≤ 20)
  ∧ ∀ (i : OutItem) (k : Nat), i.frame.length ≤ k → sdoByte i.frame k = 0)
  ∧ [Status.ok, .badFrame, .badCode, .badArg, .noSession, .denied, .heldBy, .notOwner, .full, .empty, .notFound,
    .linkDown, .lockedOut, .notQualified, .alreadyOpen].map Status.code
    = [0x00, 0x01, 0x02, 0x03, 0x04, 0x05, 0x06, 0x07, 0x08, 0x09, 0x0A, 0x0B, 0x0C, 0x0D, 0x0E]
  ∧ ∀ (p : Port) (n : Link) (d : Dest) (r : RowIx) (k : Nat) (c : BitVec 16) (f late : FrameNo) (i : CommitId)
      (on : Bool),
    let is (e : EventData) (code : Byte) (data : List Byte) : Prop := e.code = code ∧ e.bytes = data
    let id := [numByte i.port] ++ bytes16 i.sequence
    is (.peer .opened p) 0x01 [numByte p] ∧ is (.peer .closed p) 0x02 [numByte p]
    ∧ is (.peer .lapsed p) 0x03 [numByte p] ∧ is (.peer .replaced p) 0x04 [numByte p]
    ∧ is (.claimLost k d p) 0x10 (bytes16 (BitVec.ofNat 16 k) ++ [numByte d, numByte p])
    ∧ is (.commitTaken i f k late) 0x20 (id ++ bytes32 f ++ [numByte k, numByte late.toNat])
    ∧ is (.commitRejected i f d) 0x21 (id ++ bytes32 f ++ [numByte d])
    ∧ is (.commitCancelled i) 0x22 id
    ∧ (∀ j st, [RxState.disabled, .noSignal, .search, .confirm, .inFrame][j]? = some st →
        is (.linkState n st on) 0x30 [numByte n, numByte j, flagByte on])
    ∧ is (.slip n .repeated) 0x31 [numByte n, 0] ∧ is (.slip n .dropped) 0x31 [numByte n, 1]
    ∧ (∀ j st m why, [SelectorState.freeRun, .locking r, .locked r, .holdover][j]? = some st →
        [RefReason.selected, .captured, .captureFail, .phaseLoss, .targetLost, .holdoverExpired][m]? = some why →
        is (.refState st (some r) why) 0x40 [numByte j, rowNumByte r, numByte m]
        ∧ is (.refState st none why) 0x40 [numByte j, 0xFF, numByte m])
    ∧ (∀ m why, [DropReason.superseded, .cleared, .ownerEnded, .lockedOut, .rowEdited, .notQualified][m]? = some why →
        is (.refRequestDropped .manual r p why) 0x41 [1, rowNumByte r, numByte p, numByte m]
        ∧ is (.refRequestDropped .force r p why) 0x41 [2, rowNumByte r, numByte p, numByte m])
    ∧ is (.msgSent c) 0x50 (bytes16 c) ∧ is (.msgDiscarded c) 0x51 (bytes16 c)
    ∧ is (.mailboxOverflow c) 0x52 (bytes16 c) ∧ is (.eventsLost c) 0x7F (bytes16 c)

/-- CHIP_SELECT_FALL begins a transaction with its item chosen and its bytes fixed: the oldest response; else, stale
records gone from the queue, its oldest event; else IDLE (R160, R185). Nothing leaves either queue otherwise. SDO is at
high impedance while no transaction is in progress and carries the whole bytes of its transaction most significant bit
first, those of the frame and then $00 (R153, R156); ATTN is low exactly while the response queue or the event queue of
the port holds an item (R172). That SDO stays at high impedance in a low period of chip select that the port ignores,
after device reset, is the model's reading (log 23). -/
def Obligations.ChipSelectFallChoosesTheItem : Prop :=
  (∀ (s : State) (p : Port),
    (attentionLow s p = true ↔ (s.ports.get p).responses ≠ [] ∨ s.events.get p ≠ [])
    ∧ ((s.ports.get p).transaction = none → ∀ clocks k, s.sdo p clocks k = none)
    ∧ ∀ t clocks k, (s.ports.get p).transaction = some t → k / 8 < clocks / 8 →
        s.sdo p clocks k = some ((t.bytes.getD (k / 8) 0).getLsbD (7 - k % 8)))
  ∧ ∀ (s : State) (p : Port) (c : PortState) (elapsed : Time), s.ports.get p = c → c.transaction = none →
    let u := { s with now := s.now + elapsed }
    let fresh := if (s.sessions.get p).isOpen = true
      then (s.events.get p).dropWhile fun r => r.session != (s.sessions.get p).number else []
    let started (i : OutItem) : Transaction := ⟨i, i.frame, false, ⟨[], 0, true⟩⟩
    (∀ r rest, c.responses = r :: rest → exec (.chipSelectFall p elapsed) s
        = .next { u with ports := s.ports.put p { c with transaction := some (started (.response r)) } })
    ∧ (c.responses = [] → exec (.chipSelectFall p elapsed) s = .next { u with
        events := s.events.put p fresh
        ports := s.ports.put p { c with transaction := some (started
          (match fresh with | e :: _ => .event e | [] => .idle)) } })

/-- CHIP_SELECT_RISE of a transaction that carries no command, fewer than six whole bytes or all of them $00 (R165):
only delivery is settled. The item leaves its queue when as many whole bytes were clocked as its frame holds and it
was not removed meanwhile; an EVENTS_LOST record whose count rose stays with the remainder and the current frame
(R161, R162, R164, R181). An event whose record is stale by then is not delivered (R185). Every eight bits clocked in make
one whole byte, most significant bit first, and the bits after the last whole byte are discarded (R153). -/
def Obligations.ChipSelectRiseSettlesDelivery : Prop :=
  (∀ sdi : List Bool, (wholeBytes sdi).length = sdi.length / 8
    ∧ ∀ k j, k < sdi.length / 8 → j < 8 →
      ((wholeBytes sdi).getD k 0).getLsbD (7 - j) = sdi.getD (8 * k + j) false)
  ∧ ∀ (s : State) (p : Port) (c : PortState) (t : Transaction) (sdi : List Bool) (span : ResetSpan) (elapsed : Time),
    s.ports.get p = c → c.transaction = some t → t.inbound = ⟨[], 0, true⟩ →
    ((wholeBytes sdi).length < 6 ∨ ∀ b ∈ wholeBytes sdi, b = 0) →
    let u := { s with now := s.now + elapsed }
    let whole := t.bytes.length ≤ (wholeBytes sdi).length ∧ t.removed = false
    (¬ whole ∨ t.item = .idle → exec (.chipSelectRise p sdi span elapsed) s
        = .next { u with ports := s.ports.put p { c with transaction := none } })
    ∧ (∀ r, whole → t.item = .response r → exec (.chipSelectRise p sdi span elapsed) s
        = .next { u with ports := s.ports.put p { c with transaction := none, responses := c.responses.tail } })
    ∧ (∀ e, whole → t.item = .event e → ¬ (HasSession p s ∧ e.session = (s.sessions.get p).number) →
        exec (.chipSelectRise p sdi span elapsed) s
          = .next { u with ports := s.ports.put p { c with transaction := none } })
    ∧ (∀ e h rest, whole → t.item = .event e → HasSession p s → e.session = (s.sessions.get p).number →
        s.events.get p = h :: rest →
        exec (.chipSelectRise p sdi span elapsed) s = .next { u with
          ports := s.ports.put p { c with transaction := none }
          events := s.events.put p (match e.data, h.data with
            | .eventsLost a, .eventsLost b =>
              if a = b then rest else ⟨.eventsLost (b - a), s.timing.frameCounter, h.session⟩ :: rest
            | _, _ => rest) })

/-- A command frame clocked in from the first byte of a transaction, at least six bytes long, is the command's own row
taken on the state in which the same transaction, carrying no command, has settled delivery (R155, R164, R165, R168):
so the rows of the controllers' commands are what a rise carries (log 4). -/
def Obligations.GoodFrameAtTheRiseIsItsCommand : Prop :=
  ∀ (s : State) (p : Port) (t : Transaction) (c : Cmd) (tag : Byte) (ps extra : List Byte) (sdi : List Bool)
    (elapsed : Time),
    (s.ports.get p).transaction = some t → t.inbound = ⟨[], 0, true⟩ →
    s.resetToReach = [] → (s.ports.get p).held = none → ps.length ≤ 60 →
    wholeBytes sdi = commandFrame tag c.code ps ++ extra → 6 ≤ (wholeBytes sdi).length →
    ∃ u, exec (.chipSelectRise p (sdi.map fun _ => false) .whole elapsed) s = .next u
      ∧ exec (.chipSelectRise p sdi .whole elapsed) s = exec (c.instr p tag ps) u

/-- A bad frame (R165, R166): the first of sync, length and check that fails is the cause; it counts one, it is answered
BAD_FRAME with byte 1 as its tag when there is room, and the lease is not renewed. -/
def Obligations.BadFrameIsCountedAndAnswered : Prop :=
  ∀ (s : State) (p : Port) (t : Transaction) (sdi : List Bool) (span : ResetSpan) (elapsed : Time) (bs : List Byte)
    (cause : Byte),
    (s.ports.get p).transaction = some t → t.inbound = ⟨[], 0, true⟩ →
    s.resetToReach = [] → (s.ports.get p).held = none →
    wholeBytes sdi = bs → 6 ≤ bs.length → (∃ b ∈ bs, b ≠ 0) →
    let l := (bs.getD 3 0).toNat
    (bs.getD 0 0 ≠ 0xA6 ∧ cause = 0
      ∨ bs.getD 0 0 = 0xA6 ∧ (60 < l ∨ bs.length < 5 + l) ∧ cause = 1
      ∨ bs.getD 0 0 = 0xA6 ∧ l ≤ 60 ∧ 5 + l ≤ bs.length ∧ crc8 (bs.take (4 + l)) ≠ bs.getD (4 + l) 0 ∧ cause = 2) →
    ∃ u, exec (.chipSelectRise p (sdi.map fun _ => false) span elapsed) s = .next u
      ∧ exec (.chipSelectRise p sdi span elapsed) s = .next { u with
          ports := u.ports.modify p fun c => { c with
            badFrames := bump c.badFrames
            responses := c.responses
              ++ if c.responses.length < 4 then [⟨bs.getD 1 0, ⟨.badFrame, [cause]⟩⟩] else [] } }

/-- A good frame that finds four responses waiting is not executed, not answered, renews no lease and is counted as dropped
(R167). While a soft reset is in progress, or a frame is held, a command is not taken: its frame is held, or discarded
and counted when one is already held; once the soft reset has reached every block, HELD_FRAME_TAKEN takes the held
frame as the command it carries (R174; that a held frame not yet taken counts so is log 9). -/
def Obligations.CommandsNotTakenAreDroppedOrHeld : Prop :=
  (∀ (s : State) (p : Port) (c : Cmd) (tag : Byte) (ps : List Byte),
    s.resetToReach = [] → (s.ports.get p).held = none → 4 ≤ (s.ports.get p).responses.length →
    exec (c.instr p tag ps) s
      = .next { s with ports := s.ports.modify p fun x => { x with dropped := bump x.dropped } })
  ∧ (∀ (s : State) (p : Port) (c : Cmd) (tag : Byte) (ps : List Byte),
    ((s.ports.get p).held = none → s.resetToReach ≠ [] → ps.length ≤ 60 → exec (c.instr p tag ps) s = .next { s with
        ports := s.ports.modify p fun x => { x with
          held := some ⟨(commandFrame tag c.code ps ++ [0]).take 65, ps.length + 6, false⟩ } })
    ∧ (∀ i, (s.ports.get p).held = some i → exec (c.instr p tag ps) s
        = .next { s with ports := s.ports.modify p fun x => { x with dropped := bump x.dropped } }))
  ∧ ∀ (s : State) (p : Port) (c : Cmd) (tag : Byte) (ps : List Byte),
    s.resetToReach = [] → ps.length ≤ 60 →
    (s.ports.get p).held = some ⟨(commandFrame tag c.code ps ++ [0]).take 65, ps.length + 6, false⟩ →
    ∃ t, exec (.heldFrameTaken p) s = .next t
      ∧ exec (c.instr p tag ps) { s with ports := s.ports.modify p fun x => { x with held := none } } = .next t

/-- The catalogue of R173: each command's code, whether it needs an open session, whether it needs the configuration
right, and the parameter lengths up to 60 that gating accepts. Gating, in its order (R169): a good frame whose code the
catalogue does not have is refused BAD_CODE with the code as its data (R170); a command that needs a
session is refused NO_SESSION on a CLOSED row; one that needs the configuration right is refused DENIED below precedence
3; a length not in the catalogue is refused BAD_ARG. A command refused changes nothing but the lease its port has
renewed all the same. -/
def Obligations.CatalogueAndGatingRefuseInOrder : Prop :=
  ((Cmd.all.map fun c => (c.code.toNat, c.needsSession, c.needsRight, (List.range 61).filter c.lengthOk)) =
    [(0x01, false, false, [3]), (0x02, true, false, [0]), (0x03, true, false, [0]), (0x04, true, false, [3]),
      (0x05, true, false, [2]), (0x06, false, false, [2]), (0x07, true, true, [0]), (0x10, true, true, [3]),
      (0x11, false, false, [1]), (0x12, false, false, [1]), (0x20, true, true, [3]), (0x21, true, true, [2]),
      (0x22, true, true, [1, 2, 3, 4, 5, 6, 7]), (0x23, true, false, [1]), (0x24, true, false, [1]),
      (0x25, true, false, [0]), (0x26, false, false, [0]), (0x27, true, true, [1]), (0x30, false, false, [2]),
      (0x40, true, false, [2, 3, 4, 5, 6, 7, 8]), (0x41, true, false, [1]), (0x42, true, false, [0]),
      (0x43, true, false, [1]), (0x44, true, false, [0, 4]), (0x45, true, false, [3]), (0x46, true, false, [0]),
      (0x50, true, false, [3]), (0x51, true, false, [1]), (0x52, true, false, [0]),
      (0x53, true, false, (List.range 33).map (· + 2)), (0x60, true, false, [1]), (0x61, false, false, [2]),
      (0x62, true, true, [2])]
  ∧ ∀ c : Cmd, c ∈ Cmd.all)
  ∧ (∀ (s : State) (p : Port) (c : Cmd) (tag : Byte) (ps : List Byte), Ready p s →
    (c.needsSession = true → ¬ HasSession p s →
      exec (c.instr p tag ps) s = .next (answering p tag ⟨.noSession, []⟩ s))
    ∧ (c.needsRight = true → HasSession p s → (s.sessions.get p).precedence ≠ 3 →
      exec (c.instr p tag ps) s = .next (answering p tag ⟨.denied, []⟩ (leased p s)))
    ∧ ((c.needsSession = true → HasSession p s) → (c.needsRight = true → (s.sessions.get p).precedence = 3) →
      c.lengthOk ps.length = false →
      exec (c.instr p tag ps) s = .next (answering p tag ⟨.badArg, []⟩ (leased p s))))
  ∧ ∀ (s : State) (p : Port) (t : Transaction) (tag code : Byte) (ps extra : List Byte) (sdi : List Bool)
    (elapsed : Time),
    (s.ports.get p).transaction = some t → t.inbound = ⟨[], 0, true⟩ →
    s.resetToReach = [] → (s.ports.get p).held = none → (s.ports.get p).responses.length < 4 → ps.length ≤ 60 →
    (∀ c ∈ Cmd.all, c.code ≠ code) →
    wholeBytes sdi = commandFrame tag code ps ++ extra → 6 ≤ (wholeBytes sdi).length →
    ∃ u, exec (.chipSelectRise p (sdi.map fun _ => false) .whole elapsed) s = .next u
      ∧ exec (.chipSelectRise p sdi .whole elapsed) s
        = .next (answering p tag ⟨.badCode, [code]⟩ (leased p u))

/-! ### Sessions and claims -/

/-- PING renews the lease and reports the session number, the lease period and the precedence; on a CLOSED port it is
refused NO_SESSION, with parameters BAD_ARG (R88). -/
def Obligations.PingRenewsTheLeaseAndReports : Prop :=
  ∀ (s : State) (p : Port) (tag : Byte), Ready p s →
    (HasSession p s → exec (.ping p tag []) s = .next (answering p tag
        ⟨.ok, [(s.sessions.get p).number] ++ nat16 (s.sessions.get p).leasePeriod
          ++ small (s.sessions.get p).precedence⟩ (leased p s)))
    ∧ (¬ HasSession p s → ∀ ps, exec (.ping p tag ps) s = .next (answering p tag ⟨.noSession, []⟩ s))
    ∧ (HasSession p s → ∀ ps, ps ≠ [] → exec (.ping p tag ps) s = .next (answering p tag ⟨.badArg, []⟩ (leased p s)))

/-- OPEN (R84, R85): on a CLOSED port, a lease of 100 to 60,000 ms opens a session with the next number; on an OPEN port
the replace flag tears the old session down first, and without it the answer is ALREADY_OPEN; another lease or flag is
BAD_ARG, a lease out of range also on an OPEN port without the replace flag (the model's choice, log 37). CLOSE answers with the number being closed and tears the session down (R89, R90, R91); LEASE_EXPIRY of an OPEN
row tears it down with reason LAPSED (R87), the time base moving to that moment and never back (the model's choice,
log 3). -/
def Obligations.SessionsOpenCloseAndLapse : Prop :=
  (∀ (s : State) (p : Port) (tag : Byte) (lease : BitVec 16) (replace : Bool), Ready p s →
    let r := s.sessions.get p
    let torn := tornDown p .replaced .replaced (leased p s)
    (¬ HasSession p s → 100 ≤ lease.toNat → lease.toNat ≤ 60000 →
      exec (.openSession p tag (bytes16 lease ++ [flagByte replace])) s = .next (answering p tag
        ⟨.ok, [r.number + 1] ++ small r.endReason.code ++ bytes16 lease ++ small r.precedence⟩
        (opened p lease.toNat s)))
    ∧ (HasSession p s → 100 ≤ lease.toNat → lease.toNat ≤ 60000 → replace = true →
      exec (.openSession p tag (bytes16 lease ++ [flagByte replace])) s = .next (answering p tag
        ⟨.ok, [r.number + 1] ++ small EndReason.replaced.code ++ bytes16 lease ++ small r.precedence⟩
        (opened p lease.toNat torn)))
    ∧ (HasSession p s → 100 ≤ lease.toNat → lease.toNat ≤ 60000 → replace = false →
      exec (.openSession p tag (bytes16 lease ++ [flagByte replace])) s
        = .next (answering p tag ⟨.alreadyOpen, [r.number]⟩ (leased p s)))
    ∧ (∀ b : Byte, (¬ (100 ≤ lease.toNat ∧ lease.toNat ≤ 60000) ∨ 1 < b.toNat) →
      exec (.openSession p tag (bytes16 lease ++ [b])) s
        = .next (answering p tag ⟨.badArg, []⟩ (leased p s))))
  ∧ ∀ (s : State) (p : Port) (tag : Byte) (deadline : Time), HasSession p s →
    (Ready p s → exec (.close p tag []) s = .next (answering p tag ⟨.ok, [(s.sessions.get p).number]⟩
        (tornDown p .closed .closed (leased p s))))
    ∧ ((s.sessions.get p).lease = some deadline →
        exec (.leaseExpiry p) s = .next (tornDown p .lapsed .lapsed { s with now := max s.now deadline }))

/-- CLAIM (R94, R95): all or nothing. Without a conflict every destination of the range is the port's, those it owned
already keeping their entry, the counts claimed and taken are answered, and each port that loses destinations is sent
one CLAIM_LOST in its present session, the events of one claim in rising order of ports (the model's choice, log 18);
else the lowest conflict and its owner are named. A conflict is a destination of another port in NORMAL
mode, and of another port of equal or higher precedence in PREEMPT mode. A first destination above the last, or a mode
above $01, is BAD_ARG. -/
def Obligations.ClaimTakesTheRangeOrNothing : Prop :=
  (∀ (s : State) (p : Port) (tag a b m : Byte), Ready p s → HasSession p s → (b < a ∨ 1 < m.toNat) →
    exec (.claim p tag [a, b, m]) s = .next (answering p tag ⟨.badArg, []⟩ (leased p s)))
  ∧ ∀ (s : State) (p : Port) (tag : Byte) (first last : Dest) (preempt : Bool),
    Ready p s → HasSession p s → first ≤ last →
    let conflict (d : Dest) : Prop := first ≤ d ∧ d ≤ last ∧ ∃ w, s.claims.get d = some w ∧ w.port ≠ p
      ∧ (preempt = true → (s.sessions.get p).precedence ≤ (s.sessions.get w.port).precedence)
    let inRange := (List.finRange 256).filter fun d => first ≤ d ∧ d ≤ last
    ((∀ d, ¬ conflict d) → ∃ t,
      exec (.claim p tag [numByte first, numByte last, flagByte preempt]) s = .next (answering p tag
        ⟨.ok, nat16 (inRange.filter fun d => (s.claims.get d).map Owner.port ≠ some p).length
          ++ nat16 (inRange.filter fun d => ∃ w, s.claims.get d = some w ∧ w.port ≠ p).length⟩ t)
      ∧ (∀ d, t.claims.get d = if first ≤ d ∧ d ≤ last ∧ (s.claims.get d).map Owner.port ≠ some p
          then some ⟨p, (s.sessions.get p).number⟩ else s.claims.get d)
      ∧ t.raised = s.raised ++ (List.finRange 4).filterMap (fun q =>
          match inRange.filter fun d => q ≠ p ∧ (s.claims.get d).map Owner.port = some q with
          | [] => none
          | d :: ds => some ⟨.sessionUnit, .only q (s.sessions.get q).number, .claimLost (ds.length + 1) d p⟩)
      ∧ { t with claims := s.claims, raised := s.raised } = leased p s)
    ∧ ∀ d w, conflict d → (∀ e, e < d → ¬ conflict e) → s.claims.get d = some w →
      exec (.claim p tag [numByte first, numByte last, flagByte preempt]) s
        = .next (answering p tag ⟨.heldBy, [numByte d, numByte w.port]⟩ (leased p s))

/-- RELEASE frees the port's own destinations of a range and counts them (R97); QUERY_OWNER reports each owner of up to
32 destinations with its recorded session number, none as $FF $00 (R98, R159). A range the wrong way round, or too
long a one for QUERY_OWNER, is BAD_ARG. -/
def Obligations.ReleaseFreesAndQueryOwnerReports : Prop :=
  ∀ (s : State) (p : Port) (tag : Byte) (first last : Dest), Ready p s →
    let inRange := (List.finRange 256).filter fun d => first ≤ d ∧ d ≤ last
    (HasSession p s → first ≤ last → exec (.release p tag [numByte first, numByte last]) s = .next (answering p tag
        ⟨.ok, nat16 (inRange.filter fun d => (s.claims.get d).map Owner.port = some p).length⟩
        { leased p s with claims := Tab.tabulate fun d =>
            if first ≤ d ∧ d ≤ last ∧ (s.claims.get d).map Owner.port = some p then none else s.claims.get d }))
    ∧ (HasSession p s → last < first → exec (.release p tag [numByte first, numByte last]) s
        = .next (answering p tag ⟨.badArg, []⟩ (leased p s)))
    ∧ (first ≤ last → last.val - first.val < 32 → exec (.queryOwner p tag [numByte first, numByte last]) s
        = .next (answering p tag ⟨.ok, inRange.flatMap fun d => match s.claims.get d with
            | some w => [numByte w.port, w.session]
            | none => [0xFF, 0x00]⟩ (leased p s)))
    ∧ (last < first ∨ 32 ≤ last.val - first.val → exec (.queryOwner p tag [numByte first, numByte last]) s
        = .next (answering p tag ⟨.badArg, []⟩ (leased p s)))

/-- SOFT_RESET taken: its OK is queued behind the port's own responses, every other port's responses go, every row is
CLOSED with end reason RESET, every lease stopped, the Claim Table empty, and the other blocks are still to be reached
(R100, R101); a response chosen by a transaction of another port is marked removed (R162). No event is raised, and those
raised before and not yet queued are discarded; an event raised later, until a port's next OPEN, is barred from that port
(R61, R101, R187, log 25). Each further step reaches one block, which applies its own rule: receivers and stores clear their counters (R22), a
transmitter cuts a message whose END is not placed (R33), the selector withdraws the request and recomputes (R61), the
map goes SILENT but keeps its samples (R78), staging and the commit queue are emptied (R128), the Message Unit is
cleared but for its message ids (R151), the event queues are emptied, a transaction that has an event as its item being
marked (R162, R187), and a port clears its counters (R175).
The steps are the model's way to hold the interval of a soft reset (log 6). The selector withdraws its request and
recomputes the target by R46, with revertive off too, where it keeps an eligible current row: the model's choice, since
R61 can be read to move it to the best row (log 33). -/
def Obligations.SoftResetClosesSessionsAndReachesBlocks : Prop :=
  (∀ (s : State) (p : Port) (tag : Byte), Ready p s → HasRight p s →
    ∃ t, exec (.softReset (.command p tag [] .begun)) s = .next t
      ∧ (t.ports.get p) = { s.ports.get p with responses := (s.ports.get p).responses ++ [⟨tag, ⟨.ok, []⟩⟩] }
      ∧ (∀ q, q ≠ p → (t.ports.get q).responses = [] ∧ (t.ports.get q).held = (s.ports.get q).held
          ∧ (∀ x, (s.ports.get q).transaction = some x → (t.ports.get q).transaction
              = some { x with removed := x.removed || x.item.isResponse })
          ∧ ((s.ports.get q).transaction = none → (t.ports.get q).transaction = none))
      ∧ (∀ q, t.sessions.get q
          = { s.sessions.get q with isOpen := false, endReason := .reset, lease := none })
      ∧ (∀ d, t.claims.get d = none)
      ∧ t.raised = []
      ∧ t.resetToReach = ResetBlock.all ∧ (∀ b : ResetBlock, b ∈ t.resetToReach)
      ∧ { t with
          ports := s.ports, sessions := s.sessions, claims := s.claims, raised := s.raised
          resetToReach := s.resetToReach } = s)
  ∧ (∀ s : State, ∃ barred, s.everyone = .all barred
      ∧ ∀ q, q ∈ barred ↔ (s.sessions.get q).isOpen = false ∧ (s.sessions.get q).endReason = .reset)
  ∧ ∀ (s : State), (∀ b, b ∈ s.resetToReach → ∃ t, exec (.softReset (.reach b)) s = .next t
      ∧ t.resetToReach = s.resetToReach.erase b)
    ∧ (∀ n, .receiver n ∈ s.resetToReach → exec (.softReset (.reach (.receiver n))) s = .next { s with
        receivers := s.receivers.modify n fun r => { r with counters := ⟨0, 0, 0, 0, 0⟩ }
        stores := s.stores.modify n fun e => { e with dropSlips := 0, repeatSlips := 0 }
        resetToReach := s.resetToReach.erase (.receiver n) })
    ∧ (∀ n, .transmitter n ∈ s.resetToReach → exec (.softReset (.reach (.transmitter n))) s = .next { s with
        transmitters := s.transmitters.modify n fun t => match t.sending with
          | .sending m => if m.lastPlaced then t else { t with sending := .aborting }
          | _ => t
        resetToReach := s.resetToReach.erase (.transmitter n) })
    ∧ (.selector ∈ s.resetToReach → exec (.softReset (.reach .selector)) s = .next
        { State.recompute { s with selector := { s.selector with request := none } } with
          resetToReach := s.resetToReach.erase .selector })
    ∧ (.map ∈ s.resetToReach → exec (.softReset (.reach .map)) s = .next { s with
        activeMap := s.activeMap.map fun e => ⟨.silent, false, false, none, e.current⟩
        resetToReach := s.resetToReach.erase .map })
    ∧ (.changeManager ∈ s.resetToReach → exec (.softReset (.reach .changeManager)) s = .next { s with
        staging := Tab.fill ⟨[], none⟩, commitQueue := []
        resetToReach := s.resetToReach.erase .changeManager })
    ∧ (.messageUnit ∈ s.resetToReach → exec (.softReset (.reach .messageUnit)) s = .next { s with
        assemblers := Tab.fill ⟨none, 0, 0, 0, 0, 0, 0⟩, subscriptions := Tab.fill (Tab.fill none)
        mailboxes := Tab.fill ⟨[], none, false, 0⟩, txQueues := Tab.fill []
        resetToReach := s.resetToReach.erase .messageUnit })
    ∧ (.eventUnit ∈ s.resetToReach → ∃ t, exec (.softReset (.reach .eventUnit)) s = .next t
        ∧ (∀ p, t.events.get p = []
          ∧ t.ports.get p = (s.ports.get p).loseEvent (decide (s.events.get p ≠ [])))
        ∧ { t with events := s.events, ports := s.ports, resetToReach := s.resetToReach } = s)
    ∧ ∀ p, .port p ∈ s.resetToReach → exec (.softReset (.reach (.port p))) s = .next { s with
        ports := s.ports.modify p fun c => { c with badFrames := 0, dropped := 0 }
        resetToReach := s.resetToReach.erase (.port p) }

/-- A SOFT_RESET that reaches every block in the step that takes it leaves what its beginning followed by every block's
step leaves (R100, R174; the two ways are log 6). -/
def Obligations.WholeSoftResetIsItsStepsInOrder : Prop :=
  ∀ (s : State) (p : Port) (tag : Byte), Ready p s → HasRight p s →
    ∃ t u, exec (.softReset (.command p tag [] .begun)) s = .next t
      ∧ exec (.softReset (.command p tag [] .whole)) s = .next u
      ∧ u = softResetSteps t

/-! ### Links -/

/-- LINK_CONFIG (R3, R23, R32): receive on takes DISABLED to NO_SIGNAL; off takes any other state to DISABLED with its
position, window, grade and last good frame discarded and its counters kept; transmit on takes OFF to WAITING; off
takes the transmitter to OFF with discard and disable notices, its line keeping the level it has (log 19). What is
already so, and every other link, is unchanged. A link above 15, or an enable byte above $01, is BAD_ARG. -/
def Obligations.LinkConfigSetsTheEnables : Prop :=
  (∀ (s : State) (p : Port) (tag a b c : Byte), Ready p s → HasRight p s →
    (16 ≤ a.toNat ∨ 1 < b.toNat ∨ 1 < c.toNat) →
    exec (.linkConfig p tag [a, b, c]) s = .next (answering p tag ⟨.badArg, []⟩ (leased p s)))
  ∧ ∀ (s : State) (p : Port) (tag : Byte) (n : Link) (rx tx : Bool) (r : Receiver) (x : Transmitter),
    Ready p s → HasRight p s → s.receivers.get n = r → s.transmitters.get n = x →
    ∃ t, exec (.linkConfig p tag [numByte n, flagByte rx, flagByte tx]) s = .next (answering p tag ⟨.ok, []⟩ t)
      ∧ ((r.state ≠ .disabled ↔ rx = true) → t.receivers.get n = r ∧ t.stores.get n = s.stores.get n)
      ∧ (r.state = .disabled → rx = true → t.receivers.get n = { r with state := .noSignal, qualifying := none })
      ∧ (r.state ≠ .disabled → rx = false → t.receivers.get n = { r with
          state := .disabled, qualifying := none, position := none, lastGood := none, degraded := false, grade := 7
          windowFrames := 0, windowDamage := 0 })
      ∧ (r.state = .inFrame → rx = false →
          t.stores.get n = { s.stores.get n with state := .idle, frames := [], lastRead := none }
          ∧ t.assemblers.get n = { s.assemblers.get n with buffer := none })
      ∧ (¬ (r.state ≠ .disabled ↔ rx = true) →
          ⟨.receiver n, s.everyone, .linkState n (t.receivers.get n).state (t.receivers.get n).degraded⟩ ∈ t.raised)
      ∧ ((x.state ≠ .off ↔ tx = true) → t.transmitters.get n = x ∧ t.txNotices.get n = s.txNotices.get n)
      ∧ (x.state = .off → tx = true →
          t.transmitters.get n = ⟨.waiting, .idle, none, x.level⟩ ∧ t.txNotices.get n = s.txNotices.get n)
      ∧ (x.state ≠ .off → tx = false → t.transmitters.get n = ⟨.off, .idle, none, s.lineLevel n s.now⟩
          ∧ t.txNotices.get n = s.txNotices.get n ++ (match x.sending with
            | .sending m => [.discard m.origin m.session m.messageId, .disable]
            | _ => [.disable]))
      ∧ OtherLinksKept n s t
      ∧ (∀ m, m ≠ n → t.transmitters.get m = s.transmitters.get m ∧ t.txNotices.get m = s.txNotices.get m)
      ∧ { t with
          receivers := s.receivers, stores := s.stores, assemblers := s.assemblers, transmitters := s.transmitters
          txNotices := s.txNotices, selector := s.selector, raised := s.raised } = leased p s

/-- The readings of a link need no session and change no state but the lease every frame taken renews: LINK_STATUS
(R19), and READ_FRAME, refused LINK_DOWN without a last good frame (R20). A link above 15 is BAD_ARG. -/
def Obligations.LinkReadingsReportTheReceiver : Prop :=
  ∀ (s : State) (p : Port) (tag : Byte) (n : Link) (r : Receiver) (e : Store),
    Ready p s → s.receivers.get n = r → s.stores.get n = e →
    exec (.linkStatus p tag [numByte n]) s = .next (answering p tag
      ⟨.ok, small r.state.code ++ [flagByte r.degraded] ++ small r.grade.toNat
        ++ [flagByte (decide ((s.transmitters.get n).state ≠ .off))]
        ++ small e.state.code ++ small e.frames.length ++ nat16 r.windowFrames ++ nat16 r.windowDamage
        ++ nat16 e.slipWindow⟩ (leased p s))
    ∧ (r.lastGood = none →
        exec (.readFrame p tag [numByte n]) s = .next (answering p tag ⟨.linkDown, []⟩ (leased p s)))
    ∧ (∀ g, r.lastGood = some g → exec (.readFrame p tag [numByte n]) s = .next (answering p tag
        ⟨.ok, small r.state.code ++ bytes32 g.arrival ++ small g.grade.toNat ++ small g.sideCode.toNat
          ++ [g.sideA, g.sideB] ++ (List.finRange 16).flatMap fun i => sampleBytes (g.slots.get i)⟩ (leased p s)))
    ∧ ∀ b : Byte, 16 ≤ b.toNat →
        exec (.linkStatus p tag [b]) s = .next (answering p tag ⟨.badArg, []⟩ (leased p s))
        ∧ exec (.readFrame p tag [b]) s = .next (answering p tag ⟨.badArg, []⟩ (leased p s))

/-! ### Reference commands -/

/-- REF_TABLE (R42): the row takes the new source and grade limit, keeps its lockout and qualifies anew; a standing request
naming it is withdrawn with ROW_EDITED; then the target is recomputed once. REF_LOCKOUT (R43): writing the existing
setting changes nothing; a new setting replaces the old, withdraws with LOCKED_OUT a request that names a row now locked
out, and leads to a recomputation. That the withdrawal raises REF_REQUEST_DROPPED also when the request's own owner issues
the command is the model's choice (log 32); so is that a request of an ended session that names the row leaves the slot
with OWNER_ENDED (log 35). A field outside its range is BAD_ARG.
Without a session both are refused NO_SESSION, without the configuration right DENIED. -/
def Obligations.RefTableAndRefLockoutEditOneRow : Prop :=
  (∀ (s : State) (p : Port) (tag : Byte) (r : RowIx) (source : RefSource) (limit : Grade), Ready p s → HasRight p s →
    let ps := [rowNumByte r, refByte source, numByte limit.toNat]
    let table := s.selector.table.put r (editedRow s r source limit)
    (∀ q, s.selector.request = some q → q.row = r →
      exec (.refTable p tag ps) s = .next (answering p tag ⟨.ok, []⟩ (State.recompute { leased p s with
        selector := { s.selector with table := table, request := none }
        raised := s.raised ++ [dropEvent s .rowEdited q] })))
    ∧ ((∀ q, s.selector.request = some q → q.row ≠ r) →
      exec (.refTable p tag ps) s = .next (answering p tag ⟨.ok, []⟩ (State.recompute { leased p s with
        selector := { s.selector with table := table } })))
    ∧ ∀ a b c : Byte, (a = 0 ∨ 8 < a.toNat ∨ (16 < b.toNat ∧ b.toNat < 255) ∨ 7 < c.toNat) →
      exec (.refTable p tag [a, b, c]) s = .next (answering p tag ⟨.badArg, []⟩ (leased p s)))
  ∧ (∀ (s : State) (p : Port) (tag : Byte) (r : RowIx) (v : Bool), Ready p s → HasRight p s →
    let table := s.selector.table.put r { s.selector.table.get r with lockout := v }
    let call := exec (.refLockout p tag [rowNumByte r, flagByte v]) s
    ((s.selector.table.get r).lockout = v → call = .next (answering p tag ⟨.ok, []⟩ (leased p s)))
    ∧ (∀ q, (s.selector.table.get r).lockout ≠ v → v = true → s.selector.request = some q → q.row = r →
      call = .next (answering p tag ⟨.ok, []⟩ (State.recompute { leased p s with
        selector := { s.selector with table := table, request := none }
        raised := s.raised ++ [dropEvent s .lockedOut q] })))
    ∧ ((s.selector.table.get r).lockout ≠ v → (v = false ∨ ∀ q, s.selector.request = some q → q.row ≠ r) →
      call = .next (answering p tag ⟨.ok, []⟩ (State.recompute { leased p s with
        selector := { s.selector with table := table } })))
    ∧ ∀ a b : Byte, (a = 0 ∨ 8 < a.toNat ∨ 1 < b.toNat) →
      exec (.refLockout p tag [a, b]) s = .next (answering p tag ⟨.badArg, []⟩ (leased p s)))
  ∧ ∀ (s : State) (p : Port) (tag : Byte) (ps : List Byte), Ready p s →
    (¬ HasSession p s →
      exec (.refTable p tag ps) s = .next (answering p tag ⟨.noSession, []⟩ s)
      ∧ exec (.refLockout p tag ps) s = .next (answering p tag ⟨.noSession, []⟩ s))
    ∧ (HasSession p s → (s.sessions.get p).precedence ≠ 3 →
      exec (.refTable p tag ps) s = .next (answering p tag ⟨.denied, []⟩ (leased p s))
      ∧ exec (.refLockout p tag ps) s = .next (answering p tag ⟨.denied, []⟩ (leased p s)))

/-- REF_MODE (R44, R50): the present fields replace their settings together; a holdover limit changed during HOLDOVER
stops the timer, sets it, or, already spent, leads to FREE_RUN; a change of revertive leads to a recomputation. With no
field, or one out of range, it is BAD_ARG and nothing changes. -/
def Obligations.RefModeReplacesThePresentSettings : Prop :=
  ∀ (s : State) (p : Port) (tag : Byte) (rev : Option Bool) (wait limit : Option (BitVec 16)) (grade : Option Byte),
    Ready p s → HasRight p s →
    let call := exec (.refMode p tag (modeParams rev wait limit grade)) s
    let some' := rev.isSome ∨ wait.isSome ∨ limit.isSome ∨ grade.isSome
    let inRange := (∀ w, wait = some w → w.toNat ≤ 300) ∧ (∀ w, limit = some w → w.toNat ≤ 3600)
      ∧ ∀ g, grade = some g → g.toNat ≤ 6
    let l := modeSet rev wait limit grade s.selector
    let u := { leased p s with selector := l }
    let after (v : State) : State := if l.revertive = s.selector.revertive then v else v.recompute
    let untouched := s.selector.state ≠ .holdover ∨ l.holdoverLimit = s.selector.holdoverLimit
    (some' → inRange → untouched → call = .next (answering p tag ⟨.ok, []⟩ (after u)))
    ∧ (some' → inRange → ¬ untouched → l.holdoverLimit = 0 →
        call = .next (answering p tag ⟨.ok, []⟩ (after { u with selector := { l with holdoverTimer := none } })))
    ∧ (∀ began, some' → inRange → ¬ untouched → l.holdoverLimit ≠ 0 → s.selector.holdoverSince = some began →
        (began + l.holdoverLimit * Config.second ≤ s.now →
          call = .next (answering p tag ⟨.ok, []⟩ (after { u with
            selector := { l with state := .freeRun, lastRow := none, holdoverTimer := none, holdoverSince := none }
            raised := s.raised ++ [⟨.selector, s.everyone, .refState .freeRun none .holdoverExpired⟩] })))
        ∧ (s.now < began + l.holdoverLimit * Config.second →
          call = .next (answering p tag ⟨.ok, []⟩ (after { u with
            selector := { l with holdoverTimer := some (began + l.holdoverLimit * Config.second) } }))))
    ∧ (¬ some' ∨ ¬ inRange → call = .next (answering p tag ⟨.badArg, []⟩ (leased p s)))

/-- REF_FORCE and REF_MANUAL (R55, R56): their checks in order, and when all pass the slot is the port's request with its
session number, a request of another port is dropped with SUPERSEDED, the target is recomputed, and the response
carries the slot and the selector state. REF_CLEAR (R57): nothing on an empty slot; a request of the port itself, or of
a port of no higher precedence, leaves the slot, the latter with REF_REQUEST_DROPPED CLEARED; otherwise HELD_BY
with the owner port alone (the model's choice, log 36). The encoding of the response is log 17. A row outside 1 to 8 is BAD_ARG. A request whose session has been torn down does not
stand, and each command finds NONE, its notice taken or not (R54, R59); that REF_FORCE and REF_MANUAL then drop it with
OWNER_ENDED, and REF_CLEAR leaves that to the notice, is the model's choice (log 35).
On a CLOSED port each is refused NO_SESSION. -/
def Obligations.RefForceManualAndClearSetTheSlot : Prop :=
  (∀ (s : State) (p : Port) (tag : Byte) (r : RowIx) (w : CandidateRow), Ready p s → HasSession p s →
    s.selector.table.get r = w →
    let placed (k : RequestKind) : State := State.recompute { leased p s with
      selector := { s.selector with request := some ⟨k, r, p, (s.sessions.get p).number⟩ }
      raised := s.raised ++ replacedBy p s }
    let higher (q : Request) : Prop :=
      q.owner ≠ p ∧ (s.sessions.get p).precedence < (s.sessions.get q.owner).precedence
    let force := exec (.refForce p tag [rowNumByte r]) s
    let manual := exec (.refManual p tag [rowNumByte r]) s
    let refusal (st : Status) (data : List Byte) := answering p tag ⟨st, data⟩ (leased p s)
    (w.source = .empty → force = .next (refusal .badArg []) ∧ manual = .next (refusal .badArg []))
    ∧ (w.source ≠ .empty → w.lockout = true → force = .next (refusal .lockedOut []))
    ∧ (∀ q, w.source ≠ .empty → w.lockout = false → s.selector.request = some q → stands s q →
        q.kind = .force → higher q →
        force = .next (refusal .heldBy [numByte q.owner]))
    ∧ (w.source ≠ .empty → w.lockout = false →
        (∀ q, s.selector.request = some q → stands s q → ¬ (q.kind = .force ∧ higher q)) →
        force = .next (answering p tag ⟨.ok, slotData (placed .force)⟩ (placed .force)))
    ∧ (w.source ≠ .empty → w.qualification ≠ .qualified → manual = .next (refusal .notQualified []))
    ∧ (w.source ≠ .empty → w.qualification = .qualified → w.lockout = true → manual = .next (refusal .lockedOut []))
    ∧ (∀ q, w.source ≠ .empty → w.qualification = .qualified → w.lockout = false → s.selector.request = some q →
        stands s q → q.kind = .force ∨ higher q → manual = .next (refusal .heldBy [numByte q.owner]))
    ∧ (w.source ≠ .empty → w.qualification = .qualified → w.lockout = false →
        (∀ q, s.selector.request = some q → stands s q → ¬ (q.kind = .force ∨ higher q)) →
        manual = .next (answering p tag ⟨.ok, slotData (placed .manual)⟩ (placed .manual)))
    ∧ ∀ b : Byte, (b = 0 ∨ 8 < b.toNat) →
        exec (.refForce p tag [b]) s = .next (refusal .badArg []) ∧ exec (.refManual p tag [b]) s = .next (refusal .badArg []))
  ∧ (∀ (s : State) (p : Port) (tag : Byte), Ready p s → HasSession p s →
    let call := exec (.refClear p tag []) s
    let cleared (l : List RaisedEvent) : State := State.recompute { leased p s with
      selector := { s.selector with request := none }, raised := s.raised ++ l }
    ((∀ q, s.selector.request = some q → ¬ stands s q) →
      call = .next (answering p tag ⟨.ok, slotData s⟩ (leased p s)))
    ∧ ∀ q, s.selector.request = some q → stands s q →
        (q.owner = p → call = .next (answering p tag ⟨.ok, slotData (cleared [])⟩ (cleared [])))
        ∧ (q.owner ≠ p → (s.sessions.get q.owner).precedence ≤ (s.sessions.get p).precedence →
          let drop : List RaisedEvent := [⟨.selector, s.everyone, .refRequestDropped q.kind q.row q.owner .cleared⟩]
          call = .next (answering p tag ⟨.ok, slotData (cleared drop)⟩ (cleared drop)))
        ∧ (q.owner ≠ p → (s.sessions.get p).precedence < (s.sessions.get q.owner).precedence →
          call = .next (answering p tag ⟨.heldBy, [numByte q.owner]⟩ (leased p s))))
  ∧ ∀ (s : State) (p : Port) (tag : Byte) (ps : List Byte), Ready p s → ¬ HasSession p s →
    exec (.refForce p tag ps) s = .next (answering p tag ⟨.noSession, []⟩ s)
    ∧ exec (.refManual p tag ps) s = .next (answering p tag ⟨.noSession, []⟩ s)
    ∧ exec (.refClear p tag ps) s = .next (answering p tag ⟨.noSession, []⟩ s)

/-- REF_STATUS reports the selector, the timing, the settings, the eight rows and the standing request, in that order
(R60; a request of an ended session stands no more, R54, log 35; the encoding of none and of the times is R159's and log 17, the rounding log 16). READ_MAP reports the current frame and
one to eight entries in destination order: source, mute, invert, whether a fade runs and, if so, its fields, and the
current sample (R79). Neither changes state but for the lease. -/
def Obligations.RefStatusAndReadMapReport : Prop :=
  (∀ (s : State) (p : Port) (tag : Byte), Ready p s →
    let l := s.selector
    let ms (timer : Option Time) : List Byte := match timer with
      | some d => bytes32 (BitVec.ofNat 32 ((d - s.now) / 39321600))
      | none => [0xFF, 0xFF, 0xFF, 0xFF]
    let rowOr (r : Option RowIx) : Byte := match r with | some k => rowNumByte k | none => 0xFF
    exec (.refStatus p tag []) s = .next (answering p tag ⟨.ok,
      [numByte l.state.code, rowOr l.state.row, rowOr l.lastRow, numByte l.captureCount]
      ++ (if l.holdoverTimer = none ∧ l.state = .holdover then [0xFF, 0xFF, 0xFF, 0xFE] else ms l.holdoverTimer)
      ++ bytes16 l.phase
      ++ [numByte s.transmittedGrade.toNat] ++ bytes32 s.timing.frameCounter ++ [flagByte s.timing.wclkEnable]
      ++ [flagByte l.monitor.present]
      ++ [flagByte l.revertive] ++ nat16 l.restoreWait ++ nat16 l.holdoverLimit ++ [numByte l.wclkGrade.toNat]
      ++ ((List.finRange 8).flatMap fun r =>
        let w := l.table.get r
        [refByte w.source, numByte w.gradeLimit.toNat, flagByte w.lockout, flagByte (s.rowPresent r),
          numByte w.qualification.code] ++ ms w.restoreTimer)
      ++ requestData s⟩ (leased p s)))
  ∧ ∀ (s : State) (p : Port) (tag first count : Byte), Ready p s →
    (1 ≤ count.toNat → count.toNat ≤ 8 → first.toNat + count.toNat ≤ 256 →
      exec (.readMap p tag [first, count]) s = .next (answering p tag ⟨.ok, bytes32 s.timing.frameCounter
        ++ (((List.finRange 256).filter fun d => first.toNat ≤ d.val ∧ d.val < first.toNat + count.toNat).flatMap fun d =>
          let e := s.activeMap.get d
          [numByte d] ++ sourceBytes e.source ++ [flagByte e.mute, flagByte e.invert]
            ++ (match e.fade with
              | some f => [0x01] ++ sourceBytes f.previous ++ nat16 f.length ++ nat16 f.elapsed
              | none => [0x00])
            ++ sampleBytes e.current)⟩ (leased p s)))
    ∧ (count = 0 ∨ 8 < count.toNat ∨ 256 < first.toNat + count.toNat →
      exec (.readMap p tag [first, count]) s = .next (answering p tag ⟨.badArg, []⟩ (leased p s)))

/-- The transmitted grade (R53), and a transmitter at a boundary: OFF sends nothing; WAITING and ACTIVE are ACTIVE and
build a frame with the alignment word, the transmitted grade, zero reserved bits, the samples of its sixteen
destinations and a good CRC-8 (R2, R23, R25, R26, R27). The line of a frame is 432 cells of two halves: the level
changes at the start of every cell, the first from the level at the end of the frame before or of the steady line, and
at the middle exactly in the cell of a 1, byte 0 first and most significant bits first (R1, R24). -/
def Obligations.TransmittedGradeAndLinkFramesBuilt : Prop :=
  (∀ (s : State) (r : RowIx),
    (s.selector.state = .freeRun → s.transmittedGrade = 7) ∧ (s.selector.state = .holdover → s.transmittedGrade = 6)
    ∧ (s.selector.state = .locking r → s.transmittedGrade = 6)
    ∧ (s.selector.state = .locked r → (s.selector.table.get r).source = .wclk →
        s.transmittedGrade = s.selector.wclkGrade)
    ∧ ∀ n, s.selector.state = .locked r → (s.selector.table.get r).source = .link n →
        s.transmittedGrade.toNat = min ((s.receivers.get n).grade.toNat + 1) 6)
  ∧ (∀ (s : State) (n : Link), ∃ t, exec .outputFrameBoundary s = .next t
    ∧ ((s.transmitters.get n).state = .off →
        t.transmitters.get n = s.transmitters.get n ∧ t.txQueues.get n = s.txQueues.get n)
    ∧ ((s.transmitters.get n).state ≠ .off → (t.transmitters.get n).state = .active
      ∧ ∃ f, (t.transmitters.get n).line = some f
        ∧ LinkFrame.aligned f = true ∧ LinkFrame.crcGood f = true ∧ LinkFrame.grade f = t.transmittedGrade
        ∧ (LinkFrame.byte f 2).extractLsb' 6 2 = 0
        ∧ (∀ i : Slot, LinkFrame.slot f i = (t.activeMap.get ⟨16 * n.val + i.val, by omega⟩).current)
        ∧ (t.transmitters.get n).cells.length = 432
        ∧ ∀ (k : Nat) (h : k < 432),
            let cell (k : Nat) := (t.transmitters.get n).cells.getD k (false, false)
            let before := if k = 0 then (s.transmitters.get n).endLevel else (cell (k - 1)).2
            (cell k).1 = !before
            ∧ ((cell k).2 ≠ (cell k).1 ↔ (LinkFrame.byte f ⟨k / 8, by omega⟩).getLsbD (7 - k % 8) = true)))
  ∧ ∀ x : Transmitter, (x.line = none → x.endLevel = x.level)
      ∧ (x.line ≠ none → x.endLevel = (x.cells.getD 431 (false, false)).2)

/-- WCLK_OUT sets the setting: on leaves the pin low until the next boundary, off drives it low at once. WCLK_OUT_FALL
ends the pulse when half the frame has passed, and nothing else changes but the time base (R37); half of a frame of odd
length is truncated, and the time base moves there and never back (the model's choices, logs 11 and 3). -/
def Obligations.WordClockOutputFollowsItsSetting : Prop :=
  (∀ (s : State) (p : Port) (tag : Byte), Ready p s → HasRight p s →
    exec (.wclkOut p tag [0x01]) s = .next (answering p tag ⟨.ok, []⟩
      { leased p s with timing := { s.timing with wclkEnable := true } })
    ∧ exec (.wclkOut p tag [0x00]) s = .next (answering p tag ⟨.ok, []⟩
      { leased p s with timing := { s.timing with wclkEnable := false, wclkPin := false } })
    ∧ ∀ b : Byte, 1 < b.toNat →
      exec (.wclkOut p tag [b]) s = .next (answering p tag ⟨.badArg, []⟩ (leased p s)))
  ∧ ∀ s : State, s.timing.wclkPin = true →
    exec .wclkOutFall s = .next { s with
      now := max s.now (s.timing.begun + s.timing.frameLength / 2)
      timing := { s.timing with wclkPin := false } }

/-! ### The map, staging and commits -/

/-- STAGE (R104, R105, R106): after a stale set is emptied, a record for a destination the port owns in its present session
replaces the set's record for that destination in its place, or joins at the end of a set with room, the response
giving position, count and which, $01 for replaced and $00 for appended (log 17). A record that is not well formed is
BAD_ARG; without ownership it is NOT_OWNER, and at 32 records FULL. -/
def Obligations.StagePlacesOneRecord : Prop :=
  (∀ (s : State) (p : Port) (tag : Byte) (ps : List Byte), Ready p s → HasSession p s → 2 ≤ ps.length → ps.length ≤ 8 →
    (∀ (d : Dest) (source : Option (Source × BitVec 16)) (mute invert : Option Bool),
      (source.isSome ∨ mute.isSome ∨ invert.isSome) → (∀ x f, source = some (x, f) → f.toNat ≤ 4095) →
      ps ≠ stageParams d source mute invert) →
    exec (.stage p tag ps) s = .next (answering p tag ⟨.badArg, []⟩ (withStaging p (freshSet s p) (leased p s))))
  ∧ ∀ (s : State) (p : Port) (tag : Byte) (d : Dest) (source : Option (Source × BitVec 16)) (mute invert : Option Bool),
    Ready p s → HasSession p s → (source.isSome ∨ mute.isSome ∨ invert.isSome) →
    (∀ x f, source = some (x, f) → f.toNat ≤ 4095) →
    let call := exec (.stage p tag (stageParams d source mute invert)) s
    let set := freshSet s p
    let record : ChangeRecord := ⟨d, source.map fun x => (x.1, x.2.toNat), mute, invert⟩
    let owned := s.claims.get d = some ⟨p, (s.sessions.get p).number⟩
    (¬ owned → call = .next (answering p tag ⟨.notOwner, [numByte d]⟩ (withStaging p set (leased p s))))
    ∧ (∀ pre old post, owned → set.records = pre ++ old :: post → old.dest = d → (∀ x ∈ pre ++ post, x.dest ≠ d) →
        call = .next (answering p tag ⟨.ok, small (pre.length + 1) ++ small set.records.length ++ [0x01]⟩
          (withStaging p ⟨pre ++ record :: post, set.session⟩ (leased p s))))
    ∧ (owned → (∀ x ∈ set.records, x.dest ≠ d) → set.records.length < 32 →
        call = .next (answering p tag
          ⟨.ok, small (set.records.length + 1) ++ small (set.records.length + 1) ++ [0x00]⟩
          (withStaging p ⟨set.records ++ [record],
            if set.records = [] then some (s.sessions.get p).number else set.session⟩ (leased p s))))
    ∧ (owned → (∀ x ∈ set.records, x.dest ≠ d) → 32 ≤ set.records.length →
        call = .next (answering p tag ⟨.full, []⟩ (withStaging p set (leased p s))))

/-- UNSTAGE removes the record of a destination, or finds none (R107); DISCARD empties the set and counts it (R108);
STAGING_READ reports up to eight records from a position (R110), each as its destination, a presence byte and the parts
present (log 17); each empties a stale set first (R104).
On a CLOSED port each is refused NO_SESSION. -/
def Obligations.StagingSetIsReducedAndRead : Prop :=
  (∀ (s : State) (p : Port) (tag : Byte) (d : Dest), Ready p s → HasSession p s →
    let set := freshSet s p
    (∀ pre old post, set.records = pre ++ old :: post → old.dest = d → (∀ x ∈ pre ++ post, x.dest ≠ d) →
      exec (.unstage p tag [numByte d]) s = .next (answering p tag ⟨.ok, small (pre ++ post).length⟩
        (withStaging p (if pre ++ post = [] then ⟨[], none⟩ else ⟨pre ++ post, set.session⟩) (leased p s))))
    ∧ ((∀ x ∈ set.records, x.dest ≠ d) → exec (.unstage p tag [numByte d]) s
        = .next (answering p tag ⟨.notFound, []⟩ (withStaging p set (leased p s))))
    ∧ exec (.discard p tag []) s = .next (answering p tag ⟨.ok, small set.records.length⟩
        (withStaging p ⟨[], none⟩ (leased p s)))
    ∧ (∀ ps, ps ≠ [] → exec (.discard p tag ps) s = .next (answering p tag ⟨.badArg, []⟩ (leased p s)))
    ∧ (∀ start : Byte, 1 ≤ start.toNat → start.toNat ≤ 32 → exec (.stagingRead p tag [start]) s = .next (answering p tag
        ⟨.ok, small set.records.length ++ [set.session.getD 0]
          ++ ((set.records.drop (start.toNat - 1)).take 8).flatMap ChangeRecord.bytes⟩
        (withStaging p set (leased p s))))
    ∧ ∀ start : Byte, (start = 0 ∨ 32 < start.toNat) →
        exec (.stagingRead p tag [start]) s = .next (answering p tag ⟨.badArg, []⟩ (leased p s)))
  ∧ ∀ (s : State) (p : Port) (tag : Byte) (ps : List Byte), Ready p s → ¬ HasSession p s →
    exec (.unstage p tag ps) s = .next (answering p tag ⟨.noSession, []⟩ s)
    ∧ exec (.discard p tag ps) s = .next (answering p tag ⟨.noSession, []⟩ s)
    ∧ exec (.stagingRead p tag ps) s = .next (answering p tag ⟨.noSession, []⟩ s)

/-- COMMIT (R111, R112, R113, R114, R115): its checks in order; accepted, the records leave the staging set as a set under
the port's next sequence number, in the queue behind every set due at or before it and ahead of every set due after
it. No due frame, a past one or the current one is settled to the next frame; more than 480,000 ahead is BAD_ARG. -/
def Obligations.CommitQueuesTheStagingSet : Prop :=
  ∀ (s : State) (p : Port) (tag : Byte) (given : Option FrameNo), Ready p s → HasSession p s →
    let call := exec (.commit p tag (match given with | some f => bytes32 f | none => [])) s
    let set := freshSet s p
    let number := (s.sessions.get p).number
    let ahead := match given with | some f => (f - s.timing.frameCounter).toNat | none => 0
    let due := match given with
      | some f => if 1 ≤ ahead ∧ ahead ≤ 480000 then f else s.timing.frameCounter + 1
      | none => s.timing.frameCounter + 1
    let queued := (s.commitQueue.filter fun x => x.id.port = p).length
    let owned (r : ChangeRecord) : Prop := s.claims.get r.dest = some ⟨p, number⟩
    let kept (st : Status) (data : List Byte) := answering p tag ⟨st, data⟩ (withStaging p set (leased p s))
    (set.records = [] → call = .next (kept .empty []))
    ∧ (set.records ≠ [] → 2 ≤ queued → call = .next (kept .full []))
    ∧ (∀ pre r post, queued < 2 → set.records = pre ++ r :: post → (∀ x ∈ pre, owned x) → ¬ owned r →
        call = .next (kept .notOwner [numByte r.dest]))
    ∧ (set.records ≠ [] → queued < 2 → (∀ r ∈ set.records, owned r) → 480000 < ahead → ahead < 2 ^ 31 →
        call = .next (kept .badArg []))
    ∧ (set.records ≠ [] → queued < 2 → (∀ r ∈ set.records, owned r) → ahead ≤ 480000 ∨ 2 ^ 31 ≤ ahead →
        ∃ before behind,
          let x : ChangeSet := ⟨⟨p, s.commitSeq.get p + 1⟩, due, number, set.records⟩
          s.commitQueue = before ++ behind ∧ (∀ y ∈ before, atOrAfter due y.due = true)
          ∧ (∀ y rest, behind = y :: rest → atOrAfter due y.due = false)
          ∧ call = .next (answering p tag
            ⟨.ok, [numByte p] ++ bytes16 (s.commitSeq.get p + 1) ++ bytes32 due ++ small set.records.length
              ++ small before.length⟩
            { leased p s with
              commitSeq := s.commitSeq.put p (s.commitSeq.get p + 1)
              commitQueue := before ++ x :: behind
              staging := s.staging.put p ⟨[], none⟩ }))

/-- CANCEL withdraws a set of the port's present session with COMMIT_CANCELLED, or finds none (R117); COMMIT_LIST reports
the port's sets with the number of sets ahead of each (R118).
On a CLOSED port each is refused NO_SESSION. -/
def Obligations.CancelWithdrawsAndCommitListReports : Prop :=
  (∀ (s : State) (p : Port) (tag : Byte) (sequence : BitVec 16), Ready p s → HasSession p s →
    let number := (s.sessions.get p).number
    let named (x : ChangeSet) : Prop := x.id = ⟨p, sequence⟩ ∧ x.session = number
    (∀ pre x post, s.commitQueue = pre ++ x :: post → named x → (∀ y ∈ pre, ¬ named y) →
      exec (.cancel p tag ([numByte p] ++ bytes16 sequence)) s = .next (answering p tag
        ⟨.ok, [numByte p] ++ bytes16 sequence ++ bytes32 x.due ++ small x.records.length⟩
        { leased p s with
          commitQueue := pre ++ post
          raised := s.raised ++ [⟨.changeManager, .only p number, .commitCancelled ⟨p, sequence⟩⟩] }))
    ∧ (∀ q : Port, q ≠ p ∨ (∀ y ∈ s.commitQueue, ¬ named y) →
      exec (.cancel p tag ([numByte q] ++ bytes16 sequence)) s
        = .next (answering p tag ⟨.notFound, []⟩ (leased p s)))
    ∧ (∀ b : Byte, 3 < b.toNat → exec (.cancel p tag ([b] ++ bytes16 sequence)) s
        = .next (answering p tag ⟨.badArg, []⟩ (leased p s)))
    ∧ (∀ ps, ps ≠ [] → exec (.commitList p tag ps) s = .next (answering p tag ⟨.badArg, []⟩ (leased p s)))
    ∧ exec (.commitList p tag []) s = .next (answering p tag
        ⟨.ok, bytes32 s.timing.frameCounter ++ small s.commitQueue.length
          ++ (s.commitQueue.zipIdx.filter fun y => y.1.id.port = p ∧ y.1.session = number).flatMap fun y =>
            [numByte p] ++ bytes16 y.1.id.sequence ++ bytes32 y.1.due ++ small y.1.records.length ++ small y.2⟩
        (leased p s)))
  ∧ ∀ (s : State) (p : Port) (tag : Byte) (ps : List Byte), Ready p s → ¬ HasSession p s →
    exec (.cancel p tag ps) s = .next (answering p tag ⟨.noSession, []⟩ s)
    ∧ exec (.commitList p tag ps) s = .next (answering p tag ⟨.noSession, []⟩ s)

/-! ### Messages, events and counters -/

/-- SUBSCRIBE writes the port's entry for a link and tells what it replaced, $01 with the old range or $00 (R137, log 17); UNSUBSCRIBE removes it, a stale entry
being answered NOT_FOUND (R138).
On a CLOSED port each is refused NO_SESSION. -/
def Obligations.SubscriptionsAreWrittenAndRemoved : Prop :=
  (∀ (s : State) (p : Port) (tag : Byte) (n : Link) (low high : Byte), Ready p s → HasSession p s →
    let number := (s.sessions.get p).number
    let old := (s.subscriptions.get n).get p
    let entry (e : Option Subscription) : State :=
      { leased p s with subscriptions := s.subscriptions.put n ((s.subscriptions.get n).put p e) }
    (low ≤ high → (∀ e, old = some e → e.session ≠ number) → exec (.subscribe p tag [numByte n, low, high]) s
        = .next (answering p tag ⟨.ok, [0x00]⟩ (entry (some ⟨low, high, number⟩))))
    ∧ (∀ e, low ≤ high → old = some e → e.session = number → exec (.subscribe p tag [numByte n, low, high]) s
        = .next (answering p tag ⟨.ok, [0x01, e.low, e.high]⟩ (entry (some ⟨low, high, number⟩))))
    ∧ (high < low → exec (.subscribe p tag [numByte n, low, high]) s
        = .next (answering p tag ⟨.badArg, []⟩ (leased p s)))
    ∧ (∀ e, old = some e → e.session = number → exec (.unsubscribe p tag [numByte n]) s
        = .next (answering p tag ⟨.ok, [e.low, e.high]⟩ (entry none)))
    ∧ ((∀ e, old = some e → e.session ≠ number) → exec (.unsubscribe p tag [numByte n]) s
        = .next (answering p tag ⟨.notFound, []⟩ (entry none)))
    ∧ ∀ b : Byte, 16 ≤ b.toNat → exec (.subscribe p tag [b, low, high]) s
          = .next (answering p tag ⟨.badArg, []⟩ (leased p s))
        ∧ exec (.unsubscribe p tag [b]) s = .next (answering p tag ⟨.badArg, []⟩ (leased p s)))
  ∧ ∀ (s : State) (p : Port) (tag : Byte) (ps : List Byte), Ready p s → ¬ HasSession p s →
    exec (.subscribe p tag ps) s = .next (answering p tag ⟨.noSession, []⟩ s)
    ∧ exec (.unsubscribe p tag ps) s = .next (answering p tag ⟨.noSession, []⟩ s)

/-- FETCH gives the oldest record of the port's mailbox with the number that remain and clears the overflow flag; a mailbox
of another session is emptied first, and an empty one is refused EMPTY (R142). SEND (R129, R145, R146): link in range
and payload at most 32, the transmitter not OFF, room in its queue; accepted, the message joins the queue under the
port's next id with its wire bytes, and the response tells what is ahead of it, a message in flight as $01 or $00
(log 17).
On a CLOSED port each is refused NO_SESSION. -/
def Obligations.FetchAndSendMoveMessages : Prop :=
  (∀ (s : State) (p : Port) (tag : Byte) (box : Mailbox), Ready p s → HasSession p s → s.mailboxes.get p = box →
    let stale := box.session ≠ none ∧ box.session ≠ some (s.sessions.get p).number
    let call := exec (.fetch p tag []) s
    (stale → call = .next (answering p tag ⟨.empty, []⟩ { leased p s with
      mailboxes := s.mailboxes.put p { box with records := [], session := none, overflowFlag := false } }))
    ∧ (¬ stale → box.records = [] → call = .next (answering p tag ⟨.empty, []⟩ { leased p s with
      mailboxes := s.mailboxes.put p { box with overflowFlag := false } }))
    ∧ (∀ ps, ps ≠ [] → exec (.fetch p tag ps) s = .next (answering p tag ⟨.badArg, []⟩ (leased p s)))
    ∧ ∀ m rest, ¬ stale → box.records = m :: rest → call = .next (answering p tag
      ⟨.ok, [numByte m.link, m.type] ++ small m.payload.length ++ m.payload ++ bytes32 m.arrival ++ small rest.length⟩
      { leased p s with
        mailboxes := s.mailboxes.put p
          { box with records := rest, overflowFlag := false, session := if rest = [] then none else box.session } }))
  ∧ (∀ (s : State) (p : Port) (tag : Byte) (n : Link) (type : Byte) (payload : List Byte),
    Ready p s → HasSession p s → payload.length ≤ 32 →
    let call := exec (.send p tag ([numByte n, type] ++ payload)) s
    let id := s.messageIds.get p + 1
    let body := [type, BitVec.ofNat 8 payload.length] ++ payload
    let q := s.txQueues.get n
    ((s.transmitters.get n).state = .off → call = .next (answering p tag ⟨.linkDown, []⟩ (leased p s)))
    ∧ ((s.transmitters.get n).state ≠ .off → 8 ≤ q.length →
        call = .next (answering p tag ⟨.full, []⟩ (leased p s)))
    ∧ ((s.transmitters.get n).state ≠ .off → q.length < 8 → call = .next (answering p tag
        ⟨.ok, bytes16 id ++ small q.length
          ++ [flagByte (match (s.transmitters.get n).sending with | .sending _ => true | _ => false)]⟩
        { leased p s with
          messageIds := s.messageIds.put p id
          txQueues := s.txQueues.put n
            (q ++ [⟨p, (s.sessions.get p).number, id, type, payload, body ++ [crc8 body]⟩]) }))
    ∧ ∀ b : Byte, 16 ≤ b.toNat → exec (.send p tag ([b, type] ++ payload)) s
        = .next (answering p tag ⟨.badArg, []⟩ (leased p s)))
  ∧ ∀ (s : State) (p : Port) (tag : Byte) (ps : List Byte), Ready p s → ¬ HasSession p s →
    exec (.fetch p tag ps) s = .next (answering p tag ⟨.noSession, []⟩ s)
    ∧ exec (.send p tag ps) s = .next (answering p tag ⟨.noSession, []⟩ s)

/-- SET_EVENT_MASK replaces the port's mask and answers the mask before it; a bit above 3 is BAD_ARG (R184). -/
def Obligations.SetEventMaskReplacesTheMask : Prop :=
  ∀ (s : State) (p : Port) (tag : Byte) (peer link slip ref : Bool), Ready p s → HasSession p s →
    let byteOf (a b c d : Bool) : Byte := numByte ((if a then 1 else 0) + (if b then 2 else 0) + (if c then 4 else 0)
      + (if d then 8 else 0))
    let m := (s.sessions.get p).mask
    exec (.setEventMask p tag [byteOf peer link slip ref]) s = .next (answering p tag
      ⟨.ok, [byteOf m.peer m.link m.slip m.ref]⟩
      { leased p s with sessions := (leased p s).sessions.modify p fun r => { r with mask := ⟨peer, link, slip, ref⟩ } })
    ∧ ∀ b : Byte, 16 ≤ b.toNat → exec (.setEventMask p tag [b]) s
        = .next (answering p tag ⟨.badArg, []⟩ (leased p s))

/-- COUNTERS_READ and COUNTERS_CLEAR (R190, R192, R193): the instance, the current frame and its counters in order; the
clear then sets exactly those to 0, or, for $FF $00, every counter of the part, answering the frame alone. -/
def Obligations.CountersAreReadAndCleared : Prop :=
  ∀ (s : State) (p : Port) (tag : Byte) (n : Link) (q : Port), Ready p s →
    let link := [0x00, numByte n] ++ bytes32 s.timing.frameCounter ++ (linkCounts s n).flatMap bytes16
    let port := [0x01, numByte q] ++ bytes32 s.timing.frameCounter ++ (portCounts s q).flatMap bytes16
    let rx (r : Receiver) : Receiver := { r with counters := ⟨0, 0, 0, 0, 0⟩ }
    let st (e : Store) : Store := { e with dropSlips := 0, repeatSlips := 0 }
    let asm (a : Assembler) : Assembler := ⟨a.buffer, 0, 0, 0, 0, 0, 0⟩
    let cp (c : PortState) : PortState := { c with badFrames := 0, dropped := 0 }
    let box (m : Mailbox) : Mailbox := { m with overflowCount := 0 }
    let u := leased p s
    exec (.countersRead p tag [0x00, numByte n]) s = .next (answering p tag ⟨.ok, link⟩ u)
    ∧ exec (.countersRead p tag [0x01, numByte q]) s = .next (answering p tag ⟨.ok, port⟩ u)
    ∧ (HasRight p s →
      exec (.countersClear p tag [0x00, numByte n]) s = .next (answering p tag ⟨.ok, link⟩ { u with
        receivers := u.receivers.modify n rx, stores := u.stores.modify n st
        assemblers := u.assemblers.modify n asm })
      ∧ exec (.countersClear p tag [0x01, numByte q]) s = .next (answering p tag ⟨.ok, port⟩ { u with
        ports := u.ports.modify q cp, mailboxes := u.mailboxes.modify q box })
      ∧ exec (.countersClear p tag [0xFF, 0x00]) s = .next (answering p tag ⟨.ok, bytes32 s.timing.frameCounter⟩ { u with
        receivers := u.receivers.map rx, stores := u.stores.map st, assemblers := u.assemblers.map asm
        ports := u.ports.map cp, mailboxes := u.mailboxes.map box }))
    ∧ ∀ a b : Byte, (a = 0 ∧ 16 ≤ b.toNat ∨ a = 1 ∧ 4 ≤ b.toNat ∨ 1 < a.toNat) →
      exec (.countersRead p tag [a, b]) s = .next (answering p tag ⟨.badArg, []⟩ u)
      ∧ (HasRight p s → ¬ (a = 0xFF ∧ b = 0) →
        exec (.countersClear p tag [a, b]) s = .next (answering p tag ⟨.badArg, []⟩ u))

/-! ### What every step keeps -/

/-- The state after reset has everything the statements below say every step keeps. -/
def Obligations.ResetHasWhatEveryStepKeeps : Prop :=
  QueuesWithinCapacity State.reset ∧ CollectionsLegal State.reset ∧ EventQueuesLegal State.reset ∧ ClaimsHeldByOpenSessions State.reset
    ∧ StoresFollowReceivers State.reset ∧ ReceiversLegal State.reset ∧ OnlyActiveTransmittersSend State.reset
    ∧ SelectionLegal State.reset ∧ FadesLegal State.reset

/-- Every step keeps the capacities of stores, staging sets, the commit queue, mailboxes, transmit queues and response
queues (R14, R103, R111, R140, R144, R171), and with them the form of every collection: one staged record of a
destination, a session number exactly where a set or a mailbox holds records, assemblies of 2 to 35 bytes, and the commit
queue in due order (R103, R115, R130, R140). -/
def Obligations.EveryStepKeepsTheCapacities : Prop :=
  (∀ s t : State, QueuesWithinCapacity s → step s = .next t → QueuesWithinCapacity t)
  ∧ ∀ s t : State, QueuesWithinCapacity s → CollectionsLegal s → step s = .next t → CollectionsLegal t

/-- Every step keeps every event queue at most 32 records long with at most one EVENTS_LOST record, the last (R178). -/
def Obligations.EveryStepKeepsTheEventQueuesLegal : Prop :=
  ∀ s t : State, EventQueuesLegal s → step s = .next t → EventQueuesLegal t

/-- Every step keeps every claim in the hands of a port whose session is open with the recorded number (R93). -/
def Obligations.EveryStepKeepsClaimsWithOpenSessions : Prop :=
  ∀ s t : State, ClaimsHeldByOpenSessions s → step s = .next t → ClaimsHeldByOpenSessions t

/-- Every step keeps receivers, stores and transmitters as R7, R8, R12, R14, R24 and R28 bind them. -/
def Obligations.EveryStepKeepsTheLinksLegal : Prop :=
  ∀ s t : State, ReceiversLegal s → StoresFollowReceivers s → OnlyActiveTransmittersSend s → step s = .next t →
    ReceiversLegal t ∧ StoresFollowReceivers t ∧ OnlyActiveTransmittersSend t

/-- Every step keeps the selector on a row that may be selected, and every row's qualification true to its presence
(R38, R41, R45). That a FORCE whose session has ended holds the selector until the next recomputation is log 35. -/
def Obligations.EveryStepKeepsTheSelectionLegal : Prop :=
  ∀ s t : State, SelectionLegal s → step s = .next t → SelectionLegal t

/-- Every step keeps every fade between two different sources, 1 to 4,095 frames long and not yet at its end (R62). -/
def Obligations.EveryStepKeepsTheFadesLegal : Prop :=
  ∀ s t : State, FadesLegal s → step s = .next t → FadesLegal t
end

