-- ==== Sys2Proof/Laws/Operands.lean ====
section
/-! SUPPORT. Tables written twice, and the fields of R159 read back from the bytes that carry them. -/

namespace Sys2Proof

namespace Tab

variable {n : Nat} {α β : Type}

/-- The later of two writes of one item stands. -/
@[simp] theorem put_put (t : Tab n α) (i : Fin n) (x y : α) : (t.put i x).put i y = t.put i y := by
  simp [put]

/-- An item written back changes nothing. -/
@[simp] theorem put_get (t : Tab n α) (i : Fin n) : t.put i (t.get i) = t := by
  refine ext_get fun j => ?_
  simp only [get_put]; split
  · rename_i h; rw [h]
  · rfl

/-- An item changed to itself changes nothing. -/
theorem modify_self (t : Tab n α) (i : Fin n) (f : α → α) (h : f (t.get i) = t.get i) : t.modify i f = t := by
  rw [modify, h, put_get]

/-- The items in order are the items by number. -/
theorem cells_eq_map_get (t : Tab n α) : t.cells = (List.finRange n).map t.get := by
  refine List.ext_getElem (by simp [t.size]) fun i h1 h2 => ?_
  simp [get]

end Tab

namespace Machine

/-! ### Bytes of small numbers -/

theorem toNat_numByte {k : Nat} (h : k < 256) : (numByte k).toNat = k := by
  simp only [numByte, BitVec.toNat_ofNat]; omega

@[simp] theorem readLink_numByte (n : Link) : readLink (numByte n) = some n := by
  have h : (numByte n).toNat = n.val := toNat_numByte (by omega)
  simp [readLink, h]

@[simp] theorem readPort_numByte (p : Port) : readPort (numByte p) = some p := by
  have h : (numByte p).toNat = p.val := toNat_numByte (by omega)
  simp [readPort, h]

@[simp] theorem readRow_rowNumByte (r : RowIx) : readRow (rowNumByte r) = some r := by
  have h : (rowNumByte r).toNat = r.val + 1 := toNat_numByte (by omega)
  simp only [readRow, h]
  rw [dif_pos (by omega)]
  simp

@[simp] theorem readOnOff_flagByte (v : Bool) : readOnOff (flagByte v) = some v := by cases v <;> rfl

@[simp] theorem toNat_numByte_dest (d : Dest) : (numByte d).toNat = d.val := toNat_numByte d.isLt

@[simp] theorem readDest_numByte (d : Dest) : readDest (numByte d) = d := by
  simp [readDest]

@[simp] theorem readGrade_numByte (g : Grade) : readGrade (numByte g.toNat) = some g := by
  revert g; decide

@[simp] theorem readRefSource_refByte (x : RefSource) : readRefSource (refByte x) = some x := by
  rcases x with _ | n | _
  · rfl
  · revert n; decide
  · rfl

theorem readLink_none (b : Byte) (h : 16 ≤ b.toNat) : readLink b = none := by
  rw [readLink, dif_neg (by omega)]

theorem readPort_none (b : Byte) (h : 3 < b.toNat) : readPort b = none := by
  rw [readPort, dif_neg (by omega)]

theorem readRow_none (b : Byte) (h : b = 0 ∨ 8 < b.toNat) : readRow b = none := by
  rw [readRow, dif_neg]
  rcases h with rfl | h
  · simp
  · omega

theorem readOnOff_none (b : Byte) (h : 1 < b.toNat) : readOnOff b = none := by
  have h0 : b ≠ 0 := by rintro rfl; simp at h
  have h1 : b ≠ 1 := by rintro rfl; simp at h
  rw [readOnOff, if_neg h0, if_neg h1]

theorem readGrade_none (b : Byte) (h : 7 < b.toNat) : readGrade b = none := by
  rw [readGrade, if_neg (by omega)]

theorem readRefSource_none (b : Byte) (h : 16 < b.toNat) (h' : b.toNat < 255) : readRefSource b = none := by
  have h0 : b ≠ 0xFF := by rintro rfl; simp at h'
  have h1 : b ≠ 0x10 := by rintro rfl; simp at h
  rw [readRefSource, if_neg h0, if_neg h1, readLink_none b (by omega)]

/-! ### Numbers of several bytes -/

@[simp] theorem word16_bytes16 (w : BitVec 16) : word16 (w.extractLsb' 8 8) (w.extractLsb' 0 8) = w := by
  apply BitVec.eq_of_getLsbD_eq
  intro i hi
  simp only [word16, BitVec.getLsbD_append, BitVec.getLsbD_extractLsb']
  by_cases h : i < 8
  · simp [h]
  · have h1 : i - 8 < 8 := by omega
    have h2 : 8 + (i - 8) = i := by omega
    simp [h, h1, h2]

@[simp] theorem word32_bytes32 (w : BitVec 32) :
    word32 (w.extractLsb' 24 8) (w.extractLsb' 16 8) (w.extractLsb' 8 8) (w.extractLsb' 0 8) = w := by
  apply BitVec.eq_of_getLsbD_eq
  intro i hi
  simp only [word32, BitVec.getLsbD_append, BitVec.getLsbD_extractLsb']
  by_cases h : i < 8
  · simp [h]
  · by_cases h3 : i - 8 < 8
    · have h2 : 8 + (i - 8) = i := by omega
      simp [h, h3, h2]
    · by_cases h4 : i - 8 - 8 < 8
      · have h2 : 16 + (i - 8 - 8) = i := by omega
        simp [h, h3, h4, h2]
      · have h1 : i - 8 - 8 - 8 < 8 := by omega
        have h2 : 24 + (i - 8 - 8 - 8) = i := by omega
        simp [h, h3, h4, h1, h2]

/-- The three bytes of a sample, read back. -/
@[simp] theorem word24_sampleBytes (w : Sample) :
    word24 (w.extractLsb' 16 8) (w.extractLsb' 8 8) (w.extractLsb' 0 8) = w := by
  apply BitVec.eq_of_getLsbD_eq
  intro i hi
  simp only [word24, BitVec.getLsbD_append, BitVec.getLsbD_extractLsb']
  by_cases h : i < 8
  · simp [h]
  · by_cases h3 : i - 8 < 8
    · have h2 : 8 + (i - 8) = i := by omega
      simp [h, h3, h2]
    · have h4 : i - 8 - 8 < 8 := by omega
      have h2 : 16 + (i - 8 - 8) = i := by omega
      simp [h, h3, h4, h2]

/-! ### Parameters of several fields -/

/-- A source read back from its two bytes. -/
theorem readSource_sourceBytes (x : Source) : ∃ a b, sourceBytes x = [a, b] ∧ readSource a b = some x := by
  rcases x with _ | ⟨l, i⟩
  · exact ⟨_, _, rfl, rfl⟩
  · refine ⟨numByte l, numByte i, rfl, ?_⟩
    have h : numByte l ≠ 0xFF := by revert l; decide
    rw [readSource, if_neg (fun g => h g.1), readLink_numByte, readLink_numByte]

/-- A STAGE's record read back from its parameters. -/
theorem readRecord_stageParams (d : Dest) (source : Option (Source × BitVec 16)) (mute invert : Option Bool)
    (h : source.isSome ∨ mute.isSome ∨ invert.isSome) (hf : ∀ x f, source = some (x, f) → f.toNat ≤ 4095) :
    readRecord (stageParams d source mute invert)
      = some ⟨d, source.map fun x => (x.1, x.2.toNat), mute, invert⟩ := by
  rcases source with _ | ⟨x, f⟩
  · rcases mute with _ | _ | _ <;> rcases invert with _ | _ | _ <;> simp at h <;>
      simp [stageParams, readRecord, readParts] <;> decide
  · obtain ⟨a, b, h1, h2⟩ := readSource_sourceBytes x
    have hx := hf x f rfl
    rcases mute with _ | _ | _ <;> rcases invert with _ | _ | _ <;>
      (simp [stageParams, readRecord, readParts, h1, h2, bytes16, hx, numByte, flagByte, readOnOff]; rfl)

/-- REF_MODE's fields read back from their parameters. -/
theorem readMode_modeParams (rev : Option Bool) (wait limit : Option (BitVec 16)) (grade : Option Byte)
    (h : rev.isSome ∨ wait.isSome ∨ limit.isSome ∨ grade.isSome) (h1 : ∀ w, wait = some w → w.toNat ≤ 300)
    (h2 : ∀ w, limit = some w → w.toNat ≤ 3600) (h3 : ∀ g, grade = some g → g.toNat ≤ 6) :
    readMode (modeParams rev wait limit grade)
      = some ⟨rev, wait.map BitVec.toNat, limit.map BitVec.toNat, grade.map fun g => BitVec.ofNat 3 g.toNat⟩ := by
  rcases wait with _ | w <;> rcases limit with _ | l <;> rcases grade with _ | g <;> rcases rev with _ | _ | _ <;>
    simp at h h1 h2 h3 <;>
    simp [readMode, modeParams, readOptional, readOptional16, numByte, flagByte, readOnOff, bytes16, readUpTo, *]

/-! ### Parameters read are parameters spelt: the only bytes a reader takes are those of the writers above -/

theorem numByte_toNat (b : Byte) : numByte b.toNat = b := by simp [numByte]

theorem readOnOff_some {b : Byte} {v : Bool} (h : readOnOff b = some v) : b = flagByte v := by
  unfold readOnOff at h
  split at h
  · simp only [Option.some.injEq] at h; subst h; assumption
  · split at h
    · simp only [Option.some.injEq] at h; subst h; assumption
    · cases h

theorem readLink_some {b : Byte} {n : Link} (h : readLink b = some n) : b = numByte n := by
  unfold readLink at h
  split at h
  · simp only [Option.some.injEq] at h; subst h; exact (numByte_toNat b).symm
  · cases h

theorem readSource_some {a b : Byte} {x : Source} (h : readSource a b = some x) : sourceBytes x = [a, b] := by
  unfold readSource at h
  split at h
  · rename_i e; simp only [Option.some.injEq] at h; subst h; rw [e.1, e.2]; rfl
  · split at h
    · rename_i l i hl hi
      simp only [Option.some.injEq] at h
      subst h
      rw [readLink_some hl, readLink_some hi]; rfl
    · cases h

theorem bytes16_word16 (a b : Byte) : bytes16 (word16 a b) = [a, b] := by
  have h : word16 a b = BitVec.ofNat 16 (a.toNat * 256 + b.toNat) := by
    apply BitVec.eq_of_toNat_eq
    simp only [word16, BitVec.toNat_append, BitVec.toNat_ofNat]
    rw [← Nat.shiftLeft_add_eq_or_of_lt b.isLt, Nat.shiftLeft_eq]
    omega
  rw [h]
  simp only [bytes16, List.cons.injEq, and_true]
  constructor <;> apply BitVec.eq_of_toNat_eq <;>
    simp only [BitVec.extractLsb'_toNat, BitVec.toNat_ofNat, Nat.shiftRight_eq_div_pow] <;> omega

/-- The byte of an optional on-or-off part. -/
def flagPart (v : Option Bool) : List Byte := match v with | some w => [flagByte w] | none => []

/-- A record read is one that STAGE's parameters spell (R105). -/
theorem readRecord_some {ps : List Byte} {r : ChangeRecord} (h : readRecord ps = some r) :
    ∃ source mute invert, (source.isSome ∨ mute.isSome ∨ invert.isSome)
      ∧ (∀ x f, source = some (x, f) → f.toNat ≤ 4095) ∧ ps = stageParams r.dest source mute invert := by
  rcases ps with _ | ⟨d, _ | ⟨b, rest⟩⟩
  · cases h
  · cases h
  simp only [readRecord, Option.map_eq_some_iff] at h
  obtain ⟨⟨src, m, v⟩, h, rfl⟩ := h
  unfold readParts at h
  split at h
  · cases h
  rename_i hb
  obtain ⟨hb0, hb8⟩ := not_or.mp hb
  have hb' : b = numByte ((if b.getLsbD 0 then 1 else 0) + (if b.getLsbD 1 then 2 else 0)
      + (if b.getLsbD 2 then 4 else 0)) := by
    have key : ∀ c : Byte, ¬ 8 ≤ c.toNat → c = numByte ((if c.getLsbD 0 then 1 else 0) + (if c.getLsbD 1 then 2 else 0)
        + (if c.getLsbD 2 then 4 else 0)) := by decide +kernel
    exact key b hb8
  simp only [Option.bind_eq_some_iff] at h
  obtain ⟨⟨src', r1⟩, hs, ⟨m', r2⟩, hm, ⟨v', r3⟩, hv, he⟩ := h
  split at he
  swap
  · cases he
  rename_i hr
  simp only at hr hm hv
  subst hr
  simp only [Option.some.injEq, Prod.mk.injEq] at he
  obtain ⟨rfl, rfl, rfl⟩ := he
  have hV : b.getLsbD 2 = v'.isSome ∧ r2 = flagPart v' := by
    split at hv
    · rename_i e
      split at hv
      · simp only [Option.map_eq_some_iff, Prod.mk.injEq] at hv
        obtain ⟨w, hw, rfl, rfl⟩ := hv
        exact ⟨e, by rw [readOnOff_some hw]; rfl⟩
      · cases hv
    · rename_i e
      simp only [Option.some.injEq, Prod.mk.injEq] at hv
      obtain ⟨rfl, rfl⟩ := hv
      exact ⟨by simpa using e, rfl⟩
  have hM : b.getLsbD 1 = m'.isSome ∧ r1 = flagPart m' ++ r2 := by
    split at hm
    · rename_i e
      split at hm
      · simp only [Option.map_eq_some_iff, Prod.mk.injEq] at hm
        obtain ⟨w, hw, rfl, rfl⟩ := hm
        exact ⟨e, by rw [readOnOff_some hw]; rfl⟩
      · cases hm
    · rename_i e
      simp only [Option.some.injEq, Prod.mk.injEq] at hm
      obtain ⟨rfl, rfl⟩ := hm
      exact ⟨by simpa using e, rfl⟩
  have hS : ∃ source : Option (Source × BitVec 16), b.getLsbD 0 = source.isSome
      ∧ (∀ x f, source = some (x, f) → f.toNat ≤ 4095)
      ∧ rest = (match source with | some (x, f) => sourceBytes x ++ bytes16 f | none => []) ++ r1 := by
    split at hs
    · rename_i e
      split at hs
      · simp only [Option.bind_eq_some_iff] at hs
        obtain ⟨x, hx, hf⟩ := hs
        split at hf
        · rename_i l i f g _ hw
          simp only [Option.some.injEq, Prod.mk.injEq] at hf
          obtain ⟨rfl, rfl⟩ := hf
          refine ⟨some (x, word16 f g), e, ?_, ?_⟩
          · rintro y w hy
            simp only [Option.some.injEq, Prod.mk.injEq] at hy
            obtain ⟨rfl, rfl⟩ := hy
            exact hw
          · simp only [readSource_some hx, bytes16_word16]; rfl
        · cases hf
      · cases hs
    · rename_i e
      simp only [Option.some.injEq, Prod.mk.injEq] at hs
      obtain ⟨rfl, rfl⟩ := hs
      exact ⟨none, by simpa using e, by simp, rfl⟩
  obtain ⟨source, hS1, hS2, hS3⟩ := hS
  refine ⟨source, m', v', ?_, hS2, ?_⟩
  · rw [← hS1, ← hM.1, ← hV.1]
    by_contra hc
    simp only [not_or, Bool.not_eq_true] at hc
    rw [hc.1, hc.2.1, hc.2.2] at hb'
    exact hb0 hb'
  · rw [hS1, hM.1, hV.1] at hb'
    rw [hS3, hM.2, hV.2]
    simp only [stageParams, readDest, numByte_toNat, List.cons_append, List.nil_append, List.append_assoc, ← hb']
    rfl
end Machine

end Sys2Proof
end

