-- ==== Sys2Proof/Laws/State.lean ====
section
/-! SUPPORT. One lemma per field per named update of State: what the update makes of its own field, and that it leaves
every other field alone. -/

namespace Sys2Proof.Machine.State

variable (s : State)

/-! advance -/

@[simp] theorem advance_now (e : Time) : (s.advance e).now = s.now + e := rfl
@[simp] theorem advance_receivers (e : Time) : (s.advance e).receivers = s.receivers := rfl
@[simp] theorem advance_stores (e : Time) : (s.advance e).stores = s.stores := rfl
@[simp] theorem advance_transmitters (e : Time) : (s.advance e).transmitters = s.transmitters := rfl
@[simp] theorem advance_timing (e : Time) : (s.advance e).timing = s.timing := rfl
@[simp] theorem advance_selector (e : Time) : (s.advance e).selector = s.selector := rfl
@[simp] theorem advance_activeMap (e : Time) : (s.advance e).activeMap = s.activeMap := rfl
@[simp] theorem advance_sessions (e : Time) : (s.advance e).sessions = s.sessions := rfl
@[simp] theorem advance_everyone (e : Time) : (s.advance e).everyone = s.everyone := rfl
@[simp] theorem advance_claims (e : Time) : (s.advance e).claims = s.claims := rfl
@[simp] theorem advance_staging (e : Time) : (s.advance e).staging = s.staging := rfl
@[simp] theorem advance_commitQueue (e : Time) : (s.advance e).commitQueue = s.commitQueue := rfl
@[simp] theorem advance_commitSeq (e : Time) : (s.advance e).commitSeq = s.commitSeq := rfl
@[simp] theorem advance_assemblers (e : Time) : (s.advance e).assemblers = s.assemblers := rfl
@[simp] theorem advance_subscriptions (e : Time) : (s.advance e).subscriptions = s.subscriptions := rfl
@[simp] theorem advance_mailboxes (e : Time) : (s.advance e).mailboxes = s.mailboxes := rfl
@[simp] theorem advance_txQueues (e : Time) : (s.advance e).txQueues = s.txQueues := rfl
@[simp] theorem advance_messageIds (e : Time) : (s.advance e).messageIds = s.messageIds := rfl
@[simp] theorem advance_ports (e : Time) : (s.advance e).ports = s.ports := rfl
@[simp] theorem advance_events (e : Time) : (s.advance e).events = s.events := rfl
@[simp] theorem advance_raised (e : Time) : (s.advance e).raised = s.raised := rfl
@[simp] theorem advance_chmNotices (e : Time) : (s.advance e).chmNotices = s.chmNotices := rfl
@[simp] theorem advance_rslNotices (e : Time) : (s.advance e).rslNotices = s.rslNotices := rfl
@[simp] theorem advance_msuNotices (e : Time) : (s.advance e).msuNotices = s.msuNotices := rfl
@[simp] theorem advance_evuNotices (e : Time) : (s.advance e).evuNotices = s.evuNotices := rfl
@[simp] theorem advance_txNotices (e : Time) : (s.advance e).txNotices = s.txNotices := rfl
@[simp] theorem advance_resetToReach (e : Time) : (s.advance e).resetToReach = s.resetToReach := rfl
@[simp] theorem advance_pending (e : Time) : (s.advance e).pending = s.pending := rfl

/-! advanceTo -/

@[simp] theorem advanceTo_now (m : Time) : (s.advanceTo m).now = max s.now m := rfl
@[simp] theorem advanceTo_receivers (m : Time) : (s.advanceTo m).receivers = s.receivers := rfl
@[simp] theorem advanceTo_stores (m : Time) : (s.advanceTo m).stores = s.stores := rfl
@[simp] theorem advanceTo_transmitters (m : Time) : (s.advanceTo m).transmitters = s.transmitters := rfl
@[simp] theorem advanceTo_timing (m : Time) : (s.advanceTo m).timing = s.timing := rfl
@[simp] theorem advanceTo_selector (m : Time) : (s.advanceTo m).selector = s.selector := rfl
@[simp] theorem advanceTo_activeMap (m : Time) : (s.advanceTo m).activeMap = s.activeMap := rfl
@[simp] theorem advanceTo_sessions (m : Time) : (s.advanceTo m).sessions = s.sessions := rfl
@[simp] theorem advanceTo_everyone (m : Time) : (s.advanceTo m).everyone = s.everyone := rfl
@[simp] theorem advanceTo_claims (m : Time) : (s.advanceTo m).claims = s.claims := rfl
@[simp] theorem advanceTo_staging (m : Time) : (s.advanceTo m).staging = s.staging := rfl
@[simp] theorem advanceTo_commitQueue (m : Time) : (s.advanceTo m).commitQueue = s.commitQueue := rfl
@[simp] theorem advanceTo_commitSeq (m : Time) : (s.advanceTo m).commitSeq = s.commitSeq := rfl
@[simp] theorem advanceTo_assemblers (m : Time) : (s.advanceTo m).assemblers = s.assemblers := rfl
@[simp] theorem advanceTo_subscriptions (m : Time) : (s.advanceTo m).subscriptions = s.subscriptions := rfl
@[simp] theorem advanceTo_mailboxes (m : Time) : (s.advanceTo m).mailboxes = s.mailboxes := rfl
@[simp] theorem advanceTo_txQueues (m : Time) : (s.advanceTo m).txQueues = s.txQueues := rfl
@[simp] theorem advanceTo_messageIds (m : Time) : (s.advanceTo m).messageIds = s.messageIds := rfl
@[simp] theorem advanceTo_ports (m : Time) : (s.advanceTo m).ports = s.ports := rfl
@[simp] theorem advanceTo_events (m : Time) : (s.advanceTo m).events = s.events := rfl
@[simp] theorem advanceTo_raised (m : Time) : (s.advanceTo m).raised = s.raised := rfl
@[simp] theorem advanceTo_chmNotices (m : Time) : (s.advanceTo m).chmNotices = s.chmNotices := rfl
@[simp] theorem advanceTo_rslNotices (m : Time) : (s.advanceTo m).rslNotices = s.rslNotices := rfl
@[simp] theorem advanceTo_msuNotices (m : Time) : (s.advanceTo m).msuNotices = s.msuNotices := rfl
@[simp] theorem advanceTo_evuNotices (m : Time) : (s.advanceTo m).evuNotices = s.evuNotices := rfl
@[simp] theorem advanceTo_txNotices (m : Time) : (s.advanceTo m).txNotices = s.txNotices := rfl
@[simp] theorem advanceTo_resetToReach (m : Time) : (s.advanceTo m).resetToReach = s.resetToReach := rfl
@[simp] theorem advanceTo_pending (m : Time) : (s.advanceTo m).pending = s.pending := rfl

/-! onReceiver -/

@[simp] theorem onReceiver_now (n : Link) (f : Receiver → Receiver) : (s.onReceiver n f).now = s.now := rfl
@[simp] theorem onReceiver_receivers (n : Link) (f : Receiver → Receiver) : (s.onReceiver n f).receivers = s.receivers.modify n f := rfl
@[simp] theorem onReceiver_stores (n : Link) (f : Receiver → Receiver) : (s.onReceiver n f).stores = s.stores := rfl
@[simp] theorem onReceiver_transmitters (n : Link) (f : Receiver → Receiver) : (s.onReceiver n f).transmitters = s.transmitters := rfl
@[simp] theorem onReceiver_timing (n : Link) (f : Receiver → Receiver) : (s.onReceiver n f).timing = s.timing := rfl
@[simp] theorem onReceiver_selector (n : Link) (f : Receiver → Receiver) : (s.onReceiver n f).selector = s.selector := rfl
@[simp] theorem onReceiver_activeMap (n : Link) (f : Receiver → Receiver) : (s.onReceiver n f).activeMap = s.activeMap := rfl
@[simp] theorem onReceiver_sessions (n : Link) (f : Receiver → Receiver) : (s.onReceiver n f).sessions = s.sessions := rfl
@[simp] theorem onReceiver_everyone (n : Link) (f : Receiver → Receiver) : (s.onReceiver n f).everyone = s.everyone := rfl
@[simp] theorem onReceiver_claims (n : Link) (f : Receiver → Receiver) : (s.onReceiver n f).claims = s.claims := rfl
@[simp] theorem onReceiver_staging (n : Link) (f : Receiver → Receiver) : (s.onReceiver n f).staging = s.staging := rfl
@[simp] theorem onReceiver_commitQueue (n : Link) (f : Receiver → Receiver) : (s.onReceiver n f).commitQueue = s.commitQueue := rfl
@[simp] theorem onReceiver_commitSeq (n : Link) (f : Receiver → Receiver) : (s.onReceiver n f).commitSeq = s.commitSeq := rfl
@[simp] theorem onReceiver_assemblers (n : Link) (f : Receiver → Receiver) : (s.onReceiver n f).assemblers = s.assemblers := rfl
@[simp] theorem onReceiver_subscriptions (n : Link) (f : Receiver → Receiver) : (s.onReceiver n f).subscriptions = s.subscriptions := rfl
@[simp] theorem onReceiver_mailboxes (n : Link) (f : Receiver → Receiver) : (s.onReceiver n f).mailboxes = s.mailboxes := rfl
@[simp] theorem onReceiver_txQueues (n : Link) (f : Receiver → Receiver) : (s.onReceiver n f).txQueues = s.txQueues := rfl
@[simp] theorem onReceiver_messageIds (n : Link) (f : Receiver → Receiver) : (s.onReceiver n f).messageIds = s.messageIds := rfl
@[simp] theorem onReceiver_ports (n : Link) (f : Receiver → Receiver) : (s.onReceiver n f).ports = s.ports := rfl
@[simp] theorem onReceiver_events (n : Link) (f : Receiver → Receiver) : (s.onReceiver n f).events = s.events := rfl
@[simp] theorem onReceiver_raised (n : Link) (f : Receiver → Receiver) : (s.onReceiver n f).raised = s.raised := rfl
@[simp] theorem onReceiver_chmNotices (n : Link) (f : Receiver → Receiver) : (s.onReceiver n f).chmNotices = s.chmNotices := rfl
@[simp] theorem onReceiver_rslNotices (n : Link) (f : Receiver → Receiver) : (s.onReceiver n f).rslNotices = s.rslNotices := rfl
@[simp] theorem onReceiver_msuNotices (n : Link) (f : Receiver → Receiver) : (s.onReceiver n f).msuNotices = s.msuNotices := rfl
@[simp] theorem onReceiver_evuNotices (n : Link) (f : Receiver → Receiver) : (s.onReceiver n f).evuNotices = s.evuNotices := rfl
@[simp] theorem onReceiver_txNotices (n : Link) (f : Receiver → Receiver) : (s.onReceiver n f).txNotices = s.txNotices := rfl
@[simp] theorem onReceiver_resetToReach (n : Link) (f : Receiver → Receiver) : (s.onReceiver n f).resetToReach = s.resetToReach := rfl
@[simp] theorem onReceiver_pending (n : Link) (f : Receiver → Receiver) : (s.onReceiver n f).pending = s.pending := rfl

/-! onStore -/

@[simp] theorem onStore_now (n : Link) (f : Store → Store) : (s.onStore n f).now = s.now := rfl
@[simp] theorem onStore_receivers (n : Link) (f : Store → Store) : (s.onStore n f).receivers = s.receivers := rfl
@[simp] theorem onStore_stores (n : Link) (f : Store → Store) : (s.onStore n f).stores = s.stores.modify n f := rfl
@[simp] theorem onStore_transmitters (n : Link) (f : Store → Store) : (s.onStore n f).transmitters = s.transmitters := rfl
@[simp] theorem onStore_timing (n : Link) (f : Store → Store) : (s.onStore n f).timing = s.timing := rfl
@[simp] theorem onStore_selector (n : Link) (f : Store → Store) : (s.onStore n f).selector = s.selector := rfl
@[simp] theorem onStore_activeMap (n : Link) (f : Store → Store) : (s.onStore n f).activeMap = s.activeMap := rfl
@[simp] theorem onStore_sessions (n : Link) (f : Store → Store) : (s.onStore n f).sessions = s.sessions := rfl
@[simp] theorem onStore_everyone (n : Link) (f : Store → Store) : (s.onStore n f).everyone = s.everyone := rfl
@[simp] theorem onStore_claims (n : Link) (f : Store → Store) : (s.onStore n f).claims = s.claims := rfl
@[simp] theorem onStore_staging (n : Link) (f : Store → Store) : (s.onStore n f).staging = s.staging := rfl
@[simp] theorem onStore_commitQueue (n : Link) (f : Store → Store) : (s.onStore n f).commitQueue = s.commitQueue := rfl
@[simp] theorem onStore_commitSeq (n : Link) (f : Store → Store) : (s.onStore n f).commitSeq = s.commitSeq := rfl
@[simp] theorem onStore_assemblers (n : Link) (f : Store → Store) : (s.onStore n f).assemblers = s.assemblers := rfl
@[simp] theorem onStore_subscriptions (n : Link) (f : Store → Store) : (s.onStore n f).subscriptions = s.subscriptions := rfl
@[simp] theorem onStore_mailboxes (n : Link) (f : Store → Store) : (s.onStore n f).mailboxes = s.mailboxes := rfl
@[simp] theorem onStore_txQueues (n : Link) (f : Store → Store) : (s.onStore n f).txQueues = s.txQueues := rfl
@[simp] theorem onStore_messageIds (n : Link) (f : Store → Store) : (s.onStore n f).messageIds = s.messageIds := rfl
@[simp] theorem onStore_ports (n : Link) (f : Store → Store) : (s.onStore n f).ports = s.ports := rfl
@[simp] theorem onStore_events (n : Link) (f : Store → Store) : (s.onStore n f).events = s.events := rfl
@[simp] theorem onStore_raised (n : Link) (f : Store → Store) : (s.onStore n f).raised = s.raised := rfl
@[simp] theorem onStore_chmNotices (n : Link) (f : Store → Store) : (s.onStore n f).chmNotices = s.chmNotices := rfl
@[simp] theorem onStore_rslNotices (n : Link) (f : Store → Store) : (s.onStore n f).rslNotices = s.rslNotices := rfl
@[simp] theorem onStore_msuNotices (n : Link) (f : Store → Store) : (s.onStore n f).msuNotices = s.msuNotices := rfl
@[simp] theorem onStore_evuNotices (n : Link) (f : Store → Store) : (s.onStore n f).evuNotices = s.evuNotices := rfl
@[simp] theorem onStore_txNotices (n : Link) (f : Store → Store) : (s.onStore n f).txNotices = s.txNotices := rfl
@[simp] theorem onStore_resetToReach (n : Link) (f : Store → Store) : (s.onStore n f).resetToReach = s.resetToReach := rfl
@[simp] theorem onStore_pending (n : Link) (f : Store → Store) : (s.onStore n f).pending = s.pending := rfl

/-! onTransmitter -/

@[simp] theorem onTransmitter_now (n : Link) (f : Transmitter → Transmitter) : (s.onTransmitter n f).now = s.now := rfl
@[simp] theorem onTransmitter_receivers (n : Link) (f : Transmitter → Transmitter) : (s.onTransmitter n f).receivers = s.receivers := rfl
@[simp] theorem onTransmitter_stores (n : Link) (f : Transmitter → Transmitter) : (s.onTransmitter n f).stores = s.stores := rfl
@[simp] theorem onTransmitter_transmitters (n : Link) (f : Transmitter → Transmitter) : (s.onTransmitter n f).transmitters = s.transmitters.modify n f := rfl
@[simp] theorem onTransmitter_timing (n : Link) (f : Transmitter → Transmitter) : (s.onTransmitter n f).timing = s.timing := rfl
@[simp] theorem onTransmitter_selector (n : Link) (f : Transmitter → Transmitter) : (s.onTransmitter n f).selector = s.selector := rfl
@[simp] theorem onTransmitter_activeMap (n : Link) (f : Transmitter → Transmitter) : (s.onTransmitter n f).activeMap = s.activeMap := rfl
@[simp] theorem onTransmitter_sessions (n : Link) (f : Transmitter → Transmitter) : (s.onTransmitter n f).sessions = s.sessions := rfl
@[simp] theorem onTransmitter_everyone (n : Link) (f : Transmitter → Transmitter) : (s.onTransmitter n f).everyone = s.everyone := rfl
@[simp] theorem onTransmitter_claims (n : Link) (f : Transmitter → Transmitter) : (s.onTransmitter n f).claims = s.claims := rfl
@[simp] theorem onTransmitter_staging (n : Link) (f : Transmitter → Transmitter) : (s.onTransmitter n f).staging = s.staging := rfl
@[simp] theorem onTransmitter_commitQueue (n : Link) (f : Transmitter → Transmitter) : (s.onTransmitter n f).commitQueue = s.commitQueue := rfl
@[simp] theorem onTransmitter_commitSeq (n : Link) (f : Transmitter → Transmitter) : (s.onTransmitter n f).commitSeq = s.commitSeq := rfl
@[simp] theorem onTransmitter_assemblers (n : Link) (f : Transmitter → Transmitter) : (s.onTransmitter n f).assemblers = s.assemblers := rfl
@[simp] theorem onTransmitter_subscriptions (n : Link) (f : Transmitter → Transmitter) : (s.onTransmitter n f).subscriptions = s.subscriptions := rfl
@[simp] theorem onTransmitter_mailboxes (n : Link) (f : Transmitter → Transmitter) : (s.onTransmitter n f).mailboxes = s.mailboxes := rfl
@[simp] theorem onTransmitter_txQueues (n : Link) (f : Transmitter → Transmitter) : (s.onTransmitter n f).txQueues = s.txQueues := rfl
@[simp] theorem onTransmitter_messageIds (n : Link) (f : Transmitter → Transmitter) : (s.onTransmitter n f).messageIds = s.messageIds := rfl
@[simp] theorem onTransmitter_ports (n : Link) (f : Transmitter → Transmitter) : (s.onTransmitter n f).ports = s.ports := rfl
@[simp] theorem onTransmitter_events (n : Link) (f : Transmitter → Transmitter) : (s.onTransmitter n f).events = s.events := rfl
@[simp] theorem onTransmitter_raised (n : Link) (f : Transmitter → Transmitter) : (s.onTransmitter n f).raised = s.raised := rfl
@[simp] theorem onTransmitter_chmNotices (n : Link) (f : Transmitter → Transmitter) : (s.onTransmitter n f).chmNotices = s.chmNotices := rfl
@[simp] theorem onTransmitter_rslNotices (n : Link) (f : Transmitter → Transmitter) : (s.onTransmitter n f).rslNotices = s.rslNotices := rfl
@[simp] theorem onTransmitter_msuNotices (n : Link) (f : Transmitter → Transmitter) : (s.onTransmitter n f).msuNotices = s.msuNotices := rfl
@[simp] theorem onTransmitter_evuNotices (n : Link) (f : Transmitter → Transmitter) : (s.onTransmitter n f).evuNotices = s.evuNotices := rfl
@[simp] theorem onTransmitter_txNotices (n : Link) (f : Transmitter → Transmitter) : (s.onTransmitter n f).txNotices = s.txNotices := rfl
@[simp] theorem onTransmitter_resetToReach (n : Link) (f : Transmitter → Transmitter) : (s.onTransmitter n f).resetToReach = s.resetToReach := rfl
@[simp] theorem onTransmitter_pending (n : Link) (f : Transmitter → Transmitter) : (s.onTransmitter n f).pending = s.pending := rfl

/-! onSession -/

@[simp] theorem onSession_now (p : Port) (f : Session → Session) : (s.onSession p f).now = s.now := rfl
@[simp] theorem onSession_receivers (p : Port) (f : Session → Session) : (s.onSession p f).receivers = s.receivers := rfl
@[simp] theorem onSession_stores (p : Port) (f : Session → Session) : (s.onSession p f).stores = s.stores := rfl
@[simp] theorem onSession_transmitters (p : Port) (f : Session → Session) : (s.onSession p f).transmitters = s.transmitters := rfl
@[simp] theorem onSession_timing (p : Port) (f : Session → Session) : (s.onSession p f).timing = s.timing := rfl
@[simp] theorem onSession_selector (p : Port) (f : Session → Session) : (s.onSession p f).selector = s.selector := rfl
@[simp] theorem onSession_activeMap (p : Port) (f : Session → Session) : (s.onSession p f).activeMap = s.activeMap := rfl
@[simp] theorem onSession_sessions (p : Port) (f : Session → Session) : (s.onSession p f).sessions = s.sessions.modify p f := rfl
@[simp] theorem onSession_claims (p : Port) (f : Session → Session) : (s.onSession p f).claims = s.claims := rfl
@[simp] theorem onSession_staging (p : Port) (f : Session → Session) : (s.onSession p f).staging = s.staging := rfl
@[simp] theorem onSession_commitQueue (p : Port) (f : Session → Session) : (s.onSession p f).commitQueue = s.commitQueue := rfl
@[simp] theorem onSession_commitSeq (p : Port) (f : Session → Session) : (s.onSession p f).commitSeq = s.commitSeq := rfl
@[simp] theorem onSession_assemblers (p : Port) (f : Session → Session) : (s.onSession p f).assemblers = s.assemblers := rfl
@[simp] theorem onSession_subscriptions (p : Port) (f : Session → Session) : (s.onSession p f).subscriptions = s.subscriptions := rfl
@[simp] theorem onSession_mailboxes (p : Port) (f : Session → Session) : (s.onSession p f).mailboxes = s.mailboxes := rfl
@[simp] theorem onSession_txQueues (p : Port) (f : Session → Session) : (s.onSession p f).txQueues = s.txQueues := rfl
@[simp] theorem onSession_messageIds (p : Port) (f : Session → Session) : (s.onSession p f).messageIds = s.messageIds := rfl
@[simp] theorem onSession_ports (p : Port) (f : Session → Session) : (s.onSession p f).ports = s.ports := rfl
@[simp] theorem onSession_events (p : Port) (f : Session → Session) : (s.onSession p f).events = s.events := rfl
@[simp] theorem onSession_raised (p : Port) (f : Session → Session) : (s.onSession p f).raised = s.raised := rfl
@[simp] theorem onSession_chmNotices (p : Port) (f : Session → Session) : (s.onSession p f).chmNotices = s.chmNotices := rfl
@[simp] theorem onSession_rslNotices (p : Port) (f : Session → Session) : (s.onSession p f).rslNotices = s.rslNotices := rfl
@[simp] theorem onSession_msuNotices (p : Port) (f : Session → Session) : (s.onSession p f).msuNotices = s.msuNotices := rfl
@[simp] theorem onSession_evuNotices (p : Port) (f : Session → Session) : (s.onSession p f).evuNotices = s.evuNotices := rfl
@[simp] theorem onSession_txNotices (p : Port) (f : Session → Session) : (s.onSession p f).txNotices = s.txNotices := rfl
@[simp] theorem onSession_resetToReach (p : Port) (f : Session → Session) : (s.onSession p f).resetToReach = s.resetToReach := rfl
@[simp] theorem onSession_pending (p : Port) (f : Session → Session) : (s.onSession p f).pending = s.pending := rfl

/-! onAssembler -/

@[simp] theorem onAssembler_now (n : Link) (f : Assembler → Assembler) : (s.onAssembler n f).now = s.now := rfl
@[simp] theorem onAssembler_receivers (n : Link) (f : Assembler → Assembler) : (s.onAssembler n f).receivers = s.receivers := rfl
@[simp] theorem onAssembler_stores (n : Link) (f : Assembler → Assembler) : (s.onAssembler n f).stores = s.stores := rfl
@[simp] theorem onAssembler_transmitters (n : Link) (f : Assembler → Assembler) : (s.onAssembler n f).transmitters = s.transmitters := rfl
@[simp] theorem onAssembler_timing (n : Link) (f : Assembler → Assembler) : (s.onAssembler n f).timing = s.timing := rfl
@[simp] theorem onAssembler_selector (n : Link) (f : Assembler → Assembler) : (s.onAssembler n f).selector = s.selector := rfl
@[simp] theorem onAssembler_activeMap (n : Link) (f : Assembler → Assembler) : (s.onAssembler n f).activeMap = s.activeMap := rfl
@[simp] theorem onAssembler_sessions (n : Link) (f : Assembler → Assembler) : (s.onAssembler n f).sessions = s.sessions := rfl
@[simp] theorem onAssembler_everyone (n : Link) (f : Assembler → Assembler) : (s.onAssembler n f).everyone = s.everyone := rfl
@[simp] theorem onAssembler_claims (n : Link) (f : Assembler → Assembler) : (s.onAssembler n f).claims = s.claims := rfl
@[simp] theorem onAssembler_staging (n : Link) (f : Assembler → Assembler) : (s.onAssembler n f).staging = s.staging := rfl
@[simp] theorem onAssembler_commitQueue (n : Link) (f : Assembler → Assembler) : (s.onAssembler n f).commitQueue = s.commitQueue := rfl
@[simp] theorem onAssembler_commitSeq (n : Link) (f : Assembler → Assembler) : (s.onAssembler n f).commitSeq = s.commitSeq := rfl
@[simp] theorem onAssembler_assemblers (n : Link) (f : Assembler → Assembler) : (s.onAssembler n f).assemblers = s.assemblers.modify n f := rfl
@[simp] theorem onAssembler_subscriptions (n : Link) (f : Assembler → Assembler) : (s.onAssembler n f).subscriptions = s.subscriptions := rfl
@[simp] theorem onAssembler_mailboxes (n : Link) (f : Assembler → Assembler) : (s.onAssembler n f).mailboxes = s.mailboxes := rfl
@[simp] theorem onAssembler_txQueues (n : Link) (f : Assembler → Assembler) : (s.onAssembler n f).txQueues = s.txQueues := rfl
@[simp] theorem onAssembler_messageIds (n : Link) (f : Assembler → Assembler) : (s.onAssembler n f).messageIds = s.messageIds := rfl
@[simp] theorem onAssembler_ports (n : Link) (f : Assembler → Assembler) : (s.onAssembler n f).ports = s.ports := rfl
@[simp] theorem onAssembler_events (n : Link) (f : Assembler → Assembler) : (s.onAssembler n f).events = s.events := rfl
@[simp] theorem onAssembler_raised (n : Link) (f : Assembler → Assembler) : (s.onAssembler n f).raised = s.raised := rfl
@[simp] theorem onAssembler_chmNotices (n : Link) (f : Assembler → Assembler) : (s.onAssembler n f).chmNotices = s.chmNotices := rfl
@[simp] theorem onAssembler_rslNotices (n : Link) (f : Assembler → Assembler) : (s.onAssembler n f).rslNotices = s.rslNotices := rfl
@[simp] theorem onAssembler_msuNotices (n : Link) (f : Assembler → Assembler) : (s.onAssembler n f).msuNotices = s.msuNotices := rfl
@[simp] theorem onAssembler_evuNotices (n : Link) (f : Assembler → Assembler) : (s.onAssembler n f).evuNotices = s.evuNotices := rfl
@[simp] theorem onAssembler_txNotices (n : Link) (f : Assembler → Assembler) : (s.onAssembler n f).txNotices = s.txNotices := rfl
@[simp] theorem onAssembler_resetToReach (n : Link) (f : Assembler → Assembler) : (s.onAssembler n f).resetToReach = s.resetToReach := rfl
@[simp] theorem onAssembler_pending (n : Link) (f : Assembler → Assembler) : (s.onAssembler n f).pending = s.pending := rfl

/-! onPort -/

@[simp] theorem onPort_now (p : Port) (f : PortState → PortState) : (s.onPort p f).now = s.now := rfl
@[simp] theorem onPort_receivers (p : Port) (f : PortState → PortState) : (s.onPort p f).receivers = s.receivers := rfl
@[simp] theorem onPort_stores (p : Port) (f : PortState → PortState) : (s.onPort p f).stores = s.stores := rfl
@[simp] theorem onPort_transmitters (p : Port) (f : PortState → PortState) : (s.onPort p f).transmitters = s.transmitters := rfl
@[simp] theorem onPort_timing (p : Port) (f : PortState → PortState) : (s.onPort p f).timing = s.timing := rfl
@[simp] theorem onPort_selector (p : Port) (f : PortState → PortState) : (s.onPort p f).selector = s.selector := rfl
@[simp] theorem onPort_activeMap (p : Port) (f : PortState → PortState) : (s.onPort p f).activeMap = s.activeMap := rfl
@[simp] theorem onPort_sessions (p : Port) (f : PortState → PortState) : (s.onPort p f).sessions = s.sessions := rfl
@[simp] theorem onPort_everyone (p : Port) (f : PortState → PortState) : (s.onPort p f).everyone = s.everyone := rfl
@[simp] theorem onPort_claims (p : Port) (f : PortState → PortState) : (s.onPort p f).claims = s.claims := rfl
@[simp] theorem onPort_staging (p : Port) (f : PortState → PortState) : (s.onPort p f).staging = s.staging := rfl
@[simp] theorem onPort_commitQueue (p : Port) (f : PortState → PortState) : (s.onPort p f).commitQueue = s.commitQueue := rfl
@[simp] theorem onPort_commitSeq (p : Port) (f : PortState → PortState) : (s.onPort p f).commitSeq = s.commitSeq := rfl
@[simp] theorem onPort_assemblers (p : Port) (f : PortState → PortState) : (s.onPort p f).assemblers = s.assemblers := rfl
@[simp] theorem onPort_subscriptions (p : Port) (f : PortState → PortState) : (s.onPort p f).subscriptions = s.subscriptions := rfl
@[simp] theorem onPort_mailboxes (p : Port) (f : PortState → PortState) : (s.onPort p f).mailboxes = s.mailboxes := rfl
@[simp] theorem onPort_txQueues (p : Port) (f : PortState → PortState) : (s.onPort p f).txQueues = s.txQueues := rfl
@[simp] theorem onPort_messageIds (p : Port) (f : PortState → PortState) : (s.onPort p f).messageIds = s.messageIds := rfl
@[simp] theorem onPort_ports (p : Port) (f : PortState → PortState) : (s.onPort p f).ports = s.ports.modify p f := rfl
@[simp] theorem onPort_events (p : Port) (f : PortState → PortState) : (s.onPort p f).events = s.events := rfl
@[simp] theorem onPort_raised (p : Port) (f : PortState → PortState) : (s.onPort p f).raised = s.raised := rfl
@[simp] theorem onPort_chmNotices (p : Port) (f : PortState → PortState) : (s.onPort p f).chmNotices = s.chmNotices := rfl
@[simp] theorem onPort_rslNotices (p : Port) (f : PortState → PortState) : (s.onPort p f).rslNotices = s.rslNotices := rfl
@[simp] theorem onPort_msuNotices (p : Port) (f : PortState → PortState) : (s.onPort p f).msuNotices = s.msuNotices := rfl
@[simp] theorem onPort_evuNotices (p : Port) (f : PortState → PortState) : (s.onPort p f).evuNotices = s.evuNotices := rfl
@[simp] theorem onPort_txNotices (p : Port) (f : PortState → PortState) : (s.onPort p f).txNotices = s.txNotices := rfl
@[simp] theorem onPort_resetToReach (p : Port) (f : PortState → PortState) : (s.onPort p f).resetToReach = s.resetToReach := rfl
@[simp] theorem onPort_pending (p : Port) (f : PortState → PortState) : (s.onPort p f).pending = s.pending := rfl

/-! onStaging -/

@[simp] theorem onStaging_now (p : Port) (f : Staging → Staging) : (s.onStaging p f).now = s.now := rfl
@[simp] theorem onStaging_receivers (p : Port) (f : Staging → Staging) : (s.onStaging p f).receivers = s.receivers := rfl
@[simp] theorem onStaging_stores (p : Port) (f : Staging → Staging) : (s.onStaging p f).stores = s.stores := rfl
@[simp] theorem onStaging_transmitters (p : Port) (f : Staging → Staging) : (s.onStaging p f).transmitters = s.transmitters := rfl
@[simp] theorem onStaging_timing (p : Port) (f : Staging → Staging) : (s.onStaging p f).timing = s.timing := rfl
@[simp] theorem onStaging_selector (p : Port) (f : Staging → Staging) : (s.onStaging p f).selector = s.selector := rfl
@[simp] theorem onStaging_activeMap (p : Port) (f : Staging → Staging) : (s.onStaging p f).activeMap = s.activeMap := rfl
@[simp] theorem onStaging_sessions (p : Port) (f : Staging → Staging) : (s.onStaging p f).sessions = s.sessions := rfl
@[simp] theorem onStaging_everyone (p : Port) (f : Staging → Staging) : (s.onStaging p f).everyone = s.everyone := rfl
@[simp] theorem onStaging_claims (p : Port) (f : Staging → Staging) : (s.onStaging p f).claims = s.claims := rfl
@[simp] theorem onStaging_staging (p : Port) (f : Staging → Staging) : (s.onStaging p f).staging = s.staging.modify p f := rfl
@[simp] theorem onStaging_commitQueue (p : Port) (f : Staging → Staging) : (s.onStaging p f).commitQueue = s.commitQueue := rfl
@[simp] theorem onStaging_commitSeq (p : Port) (f : Staging → Staging) : (s.onStaging p f).commitSeq = s.commitSeq := rfl
@[simp] theorem onStaging_assemblers (p : Port) (f : Staging → Staging) : (s.onStaging p f).assemblers = s.assemblers := rfl
@[simp] theorem onStaging_subscriptions (p : Port) (f : Staging → Staging) : (s.onStaging p f).subscriptions = s.subscriptions := rfl
@[simp] theorem onStaging_mailboxes (p : Port) (f : Staging → Staging) : (s.onStaging p f).mailboxes = s.mailboxes := rfl
@[simp] theorem onStaging_txQueues (p : Port) (f : Staging → Staging) : (s.onStaging p f).txQueues = s.txQueues := rfl
@[simp] theorem onStaging_messageIds (p : Port) (f : Staging → Staging) : (s.onStaging p f).messageIds = s.messageIds := rfl
@[simp] theorem onStaging_ports (p : Port) (f : Staging → Staging) : (s.onStaging p f).ports = s.ports := rfl
@[simp] theorem onStaging_events (p : Port) (f : Staging → Staging) : (s.onStaging p f).events = s.events := rfl
@[simp] theorem onStaging_raised (p : Port) (f : Staging → Staging) : (s.onStaging p f).raised = s.raised := rfl
@[simp] theorem onStaging_chmNotices (p : Port) (f : Staging → Staging) : (s.onStaging p f).chmNotices = s.chmNotices := rfl
@[simp] theorem onStaging_rslNotices (p : Port) (f : Staging → Staging) : (s.onStaging p f).rslNotices = s.rslNotices := rfl
@[simp] theorem onStaging_msuNotices (p : Port) (f : Staging → Staging) : (s.onStaging p f).msuNotices = s.msuNotices := rfl
@[simp] theorem onStaging_evuNotices (p : Port) (f : Staging → Staging) : (s.onStaging p f).evuNotices = s.evuNotices := rfl
@[simp] theorem onStaging_txNotices (p : Port) (f : Staging → Staging) : (s.onStaging p f).txNotices = s.txNotices := rfl
@[simp] theorem onStaging_resetToReach (p : Port) (f : Staging → Staging) : (s.onStaging p f).resetToReach = s.resetToReach := rfl
@[simp] theorem onStaging_pending (p : Port) (f : Staging → Staging) : (s.onStaging p f).pending = s.pending := rfl

/-! onMailbox -/

@[simp] theorem onMailbox_now (p : Port) (f : Mailbox → Mailbox) : (s.onMailbox p f).now = s.now := rfl
@[simp] theorem onMailbox_receivers (p : Port) (f : Mailbox → Mailbox) : (s.onMailbox p f).receivers = s.receivers := rfl
@[simp] theorem onMailbox_stores (p : Port) (f : Mailbox → Mailbox) : (s.onMailbox p f).stores = s.stores := rfl
@[simp] theorem onMailbox_transmitters (p : Port) (f : Mailbox → Mailbox) : (s.onMailbox p f).transmitters = s.transmitters := rfl
@[simp] theorem onMailbox_timing (p : Port) (f : Mailbox → Mailbox) : (s.onMailbox p f).timing = s.timing := rfl
@[simp] theorem onMailbox_selector (p : Port) (f : Mailbox → Mailbox) : (s.onMailbox p f).selector = s.selector := rfl
@[simp] theorem onMailbox_activeMap (p : Port) (f : Mailbox → Mailbox) : (s.onMailbox p f).activeMap = s.activeMap := rfl
@[simp] theorem onMailbox_sessions (p : Port) (f : Mailbox → Mailbox) : (s.onMailbox p f).sessions = s.sessions := rfl
@[simp] theorem onMailbox_everyone (p : Port) (f : Mailbox → Mailbox) : (s.onMailbox p f).everyone = s.everyone := rfl
@[simp] theorem onMailbox_claims (p : Port) (f : Mailbox → Mailbox) : (s.onMailbox p f).claims = s.claims := rfl
@[simp] theorem onMailbox_staging (p : Port) (f : Mailbox → Mailbox) : (s.onMailbox p f).staging = s.staging := rfl
@[simp] theorem onMailbox_commitQueue (p : Port) (f : Mailbox → Mailbox) : (s.onMailbox p f).commitQueue = s.commitQueue := rfl
@[simp] theorem onMailbox_commitSeq (p : Port) (f : Mailbox → Mailbox) : (s.onMailbox p f).commitSeq = s.commitSeq := rfl
@[simp] theorem onMailbox_assemblers (p : Port) (f : Mailbox → Mailbox) : (s.onMailbox p f).assemblers = s.assemblers := rfl
@[simp] theorem onMailbox_subscriptions (p : Port) (f : Mailbox → Mailbox) : (s.onMailbox p f).subscriptions = s.subscriptions := rfl
@[simp] theorem onMailbox_mailboxes (p : Port) (f : Mailbox → Mailbox) : (s.onMailbox p f).mailboxes = s.mailboxes.modify p f := rfl
@[simp] theorem onMailbox_txQueues (p : Port) (f : Mailbox → Mailbox) : (s.onMailbox p f).txQueues = s.txQueues := rfl
@[simp] theorem onMailbox_messageIds (p : Port) (f : Mailbox → Mailbox) : (s.onMailbox p f).messageIds = s.messageIds := rfl
@[simp] theorem onMailbox_ports (p : Port) (f : Mailbox → Mailbox) : (s.onMailbox p f).ports = s.ports := rfl
@[simp] theorem onMailbox_events (p : Port) (f : Mailbox → Mailbox) : (s.onMailbox p f).events = s.events := rfl
@[simp] theorem onMailbox_raised (p : Port) (f : Mailbox → Mailbox) : (s.onMailbox p f).raised = s.raised := rfl
@[simp] theorem onMailbox_chmNotices (p : Port) (f : Mailbox → Mailbox) : (s.onMailbox p f).chmNotices = s.chmNotices := rfl
@[simp] theorem onMailbox_rslNotices (p : Port) (f : Mailbox → Mailbox) : (s.onMailbox p f).rslNotices = s.rslNotices := rfl
@[simp] theorem onMailbox_msuNotices (p : Port) (f : Mailbox → Mailbox) : (s.onMailbox p f).msuNotices = s.msuNotices := rfl
@[simp] theorem onMailbox_evuNotices (p : Port) (f : Mailbox → Mailbox) : (s.onMailbox p f).evuNotices = s.evuNotices := rfl
@[simp] theorem onMailbox_txNotices (p : Port) (f : Mailbox → Mailbox) : (s.onMailbox p f).txNotices = s.txNotices := rfl
@[simp] theorem onMailbox_resetToReach (p : Port) (f : Mailbox → Mailbox) : (s.onMailbox p f).resetToReach = s.resetToReach := rfl
@[simp] theorem onMailbox_pending (p : Port) (f : Mailbox → Mailbox) : (s.onMailbox p f).pending = s.pending := rfl

/-! onTiming -/

@[simp] theorem onTiming_now (f : FrameTiming → FrameTiming) : (s.onTiming f).now = s.now := rfl
@[simp] theorem onTiming_receivers (f : FrameTiming → FrameTiming) : (s.onTiming f).receivers = s.receivers := rfl
@[simp] theorem onTiming_stores (f : FrameTiming → FrameTiming) : (s.onTiming f).stores = s.stores := rfl
@[simp] theorem onTiming_transmitters (f : FrameTiming → FrameTiming) : (s.onTiming f).transmitters = s.transmitters := rfl
@[simp] theorem onTiming_timing (f : FrameTiming → FrameTiming) : (s.onTiming f).timing = f s.timing := rfl
@[simp] theorem onTiming_selector (f : FrameTiming → FrameTiming) : (s.onTiming f).selector = s.selector := rfl
@[simp] theorem onTiming_activeMap (f : FrameTiming → FrameTiming) : (s.onTiming f).activeMap = s.activeMap := rfl
@[simp] theorem onTiming_sessions (f : FrameTiming → FrameTiming) : (s.onTiming f).sessions = s.sessions := rfl
@[simp] theorem onTiming_everyone (f : FrameTiming → FrameTiming) : (s.onTiming f).everyone = s.everyone := rfl
@[simp] theorem onTiming_claims (f : FrameTiming → FrameTiming) : (s.onTiming f).claims = s.claims := rfl
@[simp] theorem onTiming_staging (f : FrameTiming → FrameTiming) : (s.onTiming f).staging = s.staging := rfl
@[simp] theorem onTiming_commitQueue (f : FrameTiming → FrameTiming) : (s.onTiming f).commitQueue = s.commitQueue := rfl
@[simp] theorem onTiming_commitSeq (f : FrameTiming → FrameTiming) : (s.onTiming f).commitSeq = s.commitSeq := rfl
@[simp] theorem onTiming_assemblers (f : FrameTiming → FrameTiming) : (s.onTiming f).assemblers = s.assemblers := rfl
@[simp] theorem onTiming_subscriptions (f : FrameTiming → FrameTiming) : (s.onTiming f).subscriptions = s.subscriptions := rfl
@[simp] theorem onTiming_mailboxes (f : FrameTiming → FrameTiming) : (s.onTiming f).mailboxes = s.mailboxes := rfl
@[simp] theorem onTiming_txQueues (f : FrameTiming → FrameTiming) : (s.onTiming f).txQueues = s.txQueues := rfl
@[simp] theorem onTiming_messageIds (f : FrameTiming → FrameTiming) : (s.onTiming f).messageIds = s.messageIds := rfl
@[simp] theorem onTiming_ports (f : FrameTiming → FrameTiming) : (s.onTiming f).ports = s.ports := rfl
@[simp] theorem onTiming_events (f : FrameTiming → FrameTiming) : (s.onTiming f).events = s.events := rfl
@[simp] theorem onTiming_raised (f : FrameTiming → FrameTiming) : (s.onTiming f).raised = s.raised := rfl
@[simp] theorem onTiming_chmNotices (f : FrameTiming → FrameTiming) : (s.onTiming f).chmNotices = s.chmNotices := rfl
@[simp] theorem onTiming_rslNotices (f : FrameTiming → FrameTiming) : (s.onTiming f).rslNotices = s.rslNotices := rfl
@[simp] theorem onTiming_msuNotices (f : FrameTiming → FrameTiming) : (s.onTiming f).msuNotices = s.msuNotices := rfl
@[simp] theorem onTiming_evuNotices (f : FrameTiming → FrameTiming) : (s.onTiming f).evuNotices = s.evuNotices := rfl
@[simp] theorem onTiming_txNotices (f : FrameTiming → FrameTiming) : (s.onTiming f).txNotices = s.txNotices := rfl
@[simp] theorem onTiming_resetToReach (f : FrameTiming → FrameTiming) : (s.onTiming f).resetToReach = s.resetToReach := rfl
@[simp] theorem onTiming_pending (f : FrameTiming → FrameTiming) : (s.onTiming f).pending = s.pending := rfl

/-! onSelector -/

@[simp] theorem onSelector_now (f : Selector → Selector) : (s.onSelector f).now = s.now := rfl
@[simp] theorem onSelector_receivers (f : Selector → Selector) : (s.onSelector f).receivers = s.receivers := rfl
@[simp] theorem onSelector_stores (f : Selector → Selector) : (s.onSelector f).stores = s.stores := rfl
@[simp] theorem onSelector_transmitters (f : Selector → Selector) : (s.onSelector f).transmitters = s.transmitters := rfl
@[simp] theorem onSelector_timing (f : Selector → Selector) : (s.onSelector f).timing = s.timing := rfl
@[simp] theorem onSelector_selector (f : Selector → Selector) : (s.onSelector f).selector = f s.selector := rfl
@[simp] theorem onSelector_activeMap (f : Selector → Selector) : (s.onSelector f).activeMap = s.activeMap := rfl
@[simp] theorem onSelector_sessions (f : Selector → Selector) : (s.onSelector f).sessions = s.sessions := rfl
@[simp] theorem onSelector_everyone (f : Selector → Selector) : (s.onSelector f).everyone = s.everyone := rfl
@[simp] theorem onSelector_claims (f : Selector → Selector) : (s.onSelector f).claims = s.claims := rfl
@[simp] theorem onSelector_staging (f : Selector → Selector) : (s.onSelector f).staging = s.staging := rfl
@[simp] theorem onSelector_commitQueue (f : Selector → Selector) : (s.onSelector f).commitQueue = s.commitQueue := rfl
@[simp] theorem onSelector_commitSeq (f : Selector → Selector) : (s.onSelector f).commitSeq = s.commitSeq := rfl
@[simp] theorem onSelector_assemblers (f : Selector → Selector) : (s.onSelector f).assemblers = s.assemblers := rfl
@[simp] theorem onSelector_subscriptions (f : Selector → Selector) : (s.onSelector f).subscriptions = s.subscriptions := rfl
@[simp] theorem onSelector_mailboxes (f : Selector → Selector) : (s.onSelector f).mailboxes = s.mailboxes := rfl
@[simp] theorem onSelector_txQueues (f : Selector → Selector) : (s.onSelector f).txQueues = s.txQueues := rfl
@[simp] theorem onSelector_messageIds (f : Selector → Selector) : (s.onSelector f).messageIds = s.messageIds := rfl
@[simp] theorem onSelector_ports (f : Selector → Selector) : (s.onSelector f).ports = s.ports := rfl
@[simp] theorem onSelector_events (f : Selector → Selector) : (s.onSelector f).events = s.events := rfl
@[simp] theorem onSelector_raised (f : Selector → Selector) : (s.onSelector f).raised = s.raised := rfl
@[simp] theorem onSelector_chmNotices (f : Selector → Selector) : (s.onSelector f).chmNotices = s.chmNotices := rfl
@[simp] theorem onSelector_rslNotices (f : Selector → Selector) : (s.onSelector f).rslNotices = s.rslNotices := rfl
@[simp] theorem onSelector_msuNotices (f : Selector → Selector) : (s.onSelector f).msuNotices = s.msuNotices := rfl
@[simp] theorem onSelector_evuNotices (f : Selector → Selector) : (s.onSelector f).evuNotices = s.evuNotices := rfl
@[simp] theorem onSelector_txNotices (f : Selector → Selector) : (s.onSelector f).txNotices = s.txNotices := rfl
@[simp] theorem onSelector_resetToReach (f : Selector → Selector) : (s.onSelector f).resetToReach = s.resetToReach := rfl
@[simp] theorem onSelector_pending (f : Selector → Selector) : (s.onSelector f).pending = s.pending := rfl

/-! raise -/

@[simp] theorem raise_now (b : EventSource) (q : Audience) (d : EventData) : (s.raise b q d).now = s.now := rfl
@[simp] theorem raise_receivers (b : EventSource) (q : Audience) (d : EventData) : (s.raise b q d).receivers = s.receivers := rfl
@[simp] theorem raise_stores (b : EventSource) (q : Audience) (d : EventData) : (s.raise b q d).stores = s.stores := rfl
@[simp] theorem raise_transmitters (b : EventSource) (q : Audience) (d : EventData) : (s.raise b q d).transmitters = s.transmitters := rfl
@[simp] theorem raise_timing (b : EventSource) (q : Audience) (d : EventData) : (s.raise b q d).timing = s.timing := rfl
@[simp] theorem raise_selector (b : EventSource) (q : Audience) (d : EventData) : (s.raise b q d).selector = s.selector := rfl
@[simp] theorem raise_activeMap (b : EventSource) (q : Audience) (d : EventData) : (s.raise b q d).activeMap = s.activeMap := rfl
@[simp] theorem raise_sessions (b : EventSource) (q : Audience) (d : EventData) : (s.raise b q d).sessions = s.sessions := rfl
@[simp] theorem raise_everyone (b : EventSource) (q : Audience) (d : EventData) : (s.raise b q d).everyone = s.everyone := rfl
@[simp] theorem raise_claims (b : EventSource) (q : Audience) (d : EventData) : (s.raise b q d).claims = s.claims := rfl
@[simp] theorem raise_staging (b : EventSource) (q : Audience) (d : EventData) : (s.raise b q d).staging = s.staging := rfl
@[simp] theorem raise_commitQueue (b : EventSource) (q : Audience) (d : EventData) : (s.raise b q d).commitQueue = s.commitQueue := rfl
@[simp] theorem raise_commitSeq (b : EventSource) (q : Audience) (d : EventData) : (s.raise b q d).commitSeq = s.commitSeq := rfl
@[simp] theorem raise_assemblers (b : EventSource) (q : Audience) (d : EventData) : (s.raise b q d).assemblers = s.assemblers := rfl
@[simp] theorem raise_subscriptions (b : EventSource) (q : Audience) (d : EventData) : (s.raise b q d).subscriptions = s.subscriptions := rfl
@[simp] theorem raise_mailboxes (b : EventSource) (q : Audience) (d : EventData) : (s.raise b q d).mailboxes = s.mailboxes := rfl
@[simp] theorem raise_txQueues (b : EventSource) (q : Audience) (d : EventData) : (s.raise b q d).txQueues = s.txQueues := rfl
@[simp] theorem raise_messageIds (b : EventSource) (q : Audience) (d : EventData) : (s.raise b q d).messageIds = s.messageIds := rfl
@[simp] theorem raise_ports (b : EventSource) (q : Audience) (d : EventData) : (s.raise b q d).ports = s.ports := rfl
@[simp] theorem raise_events (b : EventSource) (q : Audience) (d : EventData) : (s.raise b q d).events = s.events := rfl
@[simp] theorem raise_raised (b : EventSource) (q : Audience) (d : EventData) : (s.raise b q d).raised = s.raised ++ [⟨b, q, d⟩] := rfl
@[simp] theorem raise_chmNotices (b : EventSource) (q : Audience) (d : EventData) : (s.raise b q d).chmNotices = s.chmNotices := rfl
@[simp] theorem raise_rslNotices (b : EventSource) (q : Audience) (d : EventData) : (s.raise b q d).rslNotices = s.rslNotices := rfl
@[simp] theorem raise_msuNotices (b : EventSource) (q : Audience) (d : EventData) : (s.raise b q d).msuNotices = s.msuNotices := rfl
@[simp] theorem raise_evuNotices (b : EventSource) (q : Audience) (d : EventData) : (s.raise b q d).evuNotices = s.evuNotices := rfl
@[simp] theorem raise_txNotices (b : EventSource) (q : Audience) (d : EventData) : (s.raise b q d).txNotices = s.txNotices := rfl
@[simp] theorem raise_resetToReach (b : EventSource) (q : Audience) (d : EventData) : (s.raise b q d).resetToReach = s.resetToReach := rfl
@[simp] theorem raise_pending (b : EventSource) (q : Audience) (d : EventData) : (s.raise b q d).pending = s.pending := rfl

end Sys2Proof.Machine.State
end

