-- ==== Sys2Proof/Laws/Frames.lean ====
section
/-! SUPPORT. Which fields each shared operation can change: a lemma `<operation>_frame` that writes its result as the
state before with those fields replaced, and the lemmas that every other field is as before. -/

namespace Sys2Proof.Machine.State

variable (s : State)

/-- Who may hear a broadcast event depends on the Session Table alone (R101). -/
theorem everyone_congr {s t : State} (h : t.sessions = s.sessions) : t.everyone = s.everyone := by
  simp only [everyone, barredPorts, h]

theorem dropRequest_frame (y : DropReason) :
    s.dropRequest y = { s with selector := (s.dropRequest y).selector, raised := (s.dropRequest y).raised } := by
  unfold dropRequest; split <;> rfl

@[simp] theorem dropRequest_now (y : DropReason) : (s.dropRequest y).now = s.now := by rw [dropRequest_frame]
@[simp] theorem dropRequest_receivers (y : DropReason) : (s.dropRequest y).receivers = s.receivers := by rw [dropRequest_frame]
@[simp] theorem dropRequest_stores (y : DropReason) : (s.dropRequest y).stores = s.stores := by rw [dropRequest_frame]
@[simp] theorem dropRequest_transmitters (y : DropReason) : (s.dropRequest y).transmitters = s.transmitters := by rw [dropRequest_frame]
@[simp] theorem dropRequest_timing (y : DropReason) : (s.dropRequest y).timing = s.timing := by rw [dropRequest_frame]
@[simp] theorem dropRequest_activeMap (y : DropReason) : (s.dropRequest y).activeMap = s.activeMap := by rw [dropRequest_frame]
@[simp] theorem dropRequest_sessions (y : DropReason) : (s.dropRequest y).sessions = s.sessions := by rw [dropRequest_frame]
@[simp] theorem dropRequest_everyone (y : DropReason) : (s.dropRequest y).everyone = s.everyone := everyone_congr (dropRequest_sessions s y)
@[simp] theorem dropRequest_claims (y : DropReason) : (s.dropRequest y).claims = s.claims := by rw [dropRequest_frame]
@[simp] theorem dropRequest_staging (y : DropReason) : (s.dropRequest y).staging = s.staging := by rw [dropRequest_frame]
@[simp] theorem dropRequest_commitQueue (y : DropReason) : (s.dropRequest y).commitQueue = s.commitQueue := by rw [dropRequest_frame]
@[simp] theorem dropRequest_commitSeq (y : DropReason) : (s.dropRequest y).commitSeq = s.commitSeq := by rw [dropRequest_frame]
@[simp] theorem dropRequest_assemblers (y : DropReason) : (s.dropRequest y).assemblers = s.assemblers := by rw [dropRequest_frame]
@[simp] theorem dropRequest_subscriptions (y : DropReason) : (s.dropRequest y).subscriptions = s.subscriptions := by rw [dropRequest_frame]
@[simp] theorem dropRequest_mailboxes (y : DropReason) : (s.dropRequest y).mailboxes = s.mailboxes := by rw [dropRequest_frame]
@[simp] theorem dropRequest_txQueues (y : DropReason) : (s.dropRequest y).txQueues = s.txQueues := by rw [dropRequest_frame]
@[simp] theorem dropRequest_messageIds (y : DropReason) : (s.dropRequest y).messageIds = s.messageIds := by rw [dropRequest_frame]
@[simp] theorem dropRequest_ports (y : DropReason) : (s.dropRequest y).ports = s.ports := by rw [dropRequest_frame]
@[simp] theorem dropRequest_events (y : DropReason) : (s.dropRequest y).events = s.events := by rw [dropRequest_frame]
@[simp] theorem dropRequest_chmNotices (y : DropReason) : (s.dropRequest y).chmNotices = s.chmNotices := by rw [dropRequest_frame]
@[simp] theorem dropRequest_rslNotices (y : DropReason) : (s.dropRequest y).rslNotices = s.rslNotices := by rw [dropRequest_frame]
@[simp] theorem dropRequest_msuNotices (y : DropReason) : (s.dropRequest y).msuNotices = s.msuNotices := by rw [dropRequest_frame]
@[simp] theorem dropRequest_evuNotices (y : DropReason) : (s.dropRequest y).evuNotices = s.evuNotices := by rw [dropRequest_frame]
@[simp] theorem dropRequest_txNotices (y : DropReason) : (s.dropRequest y).txNotices = s.txNotices := by rw [dropRequest_frame]
@[simp] theorem dropRequest_resetToReach (y : DropReason) : (s.dropRequest y).resetToReach = s.resetToReach := by rw [dropRequest_frame]
@[simp] theorem dropRequest_pending (y : DropReason) : (s.dropRequest y).pending = s.pending := by rw [dropRequest_frame]

theorem withdrawUnqualified_frame :
    s.withdrawUnqualified = { s with selector := (s.withdrawUnqualified).selector, raised := (s.withdrawUnqualified).raised } := by
  unfold withdrawUnqualified
  split
  · split
    · exact dropRequest_frame s _
    · rfl
  · rfl

@[simp] theorem withdrawUnqualified_now : (s.withdrawUnqualified).now = s.now := by rw [withdrawUnqualified_frame]
@[simp] theorem withdrawUnqualified_receivers : (s.withdrawUnqualified).receivers = s.receivers := by rw [withdrawUnqualified_frame]
@[simp] theorem withdrawUnqualified_stores : (s.withdrawUnqualified).stores = s.stores := by rw [withdrawUnqualified_frame]
@[simp] theorem withdrawUnqualified_transmitters : (s.withdrawUnqualified).transmitters = s.transmitters := by rw [withdrawUnqualified_frame]
@[simp] theorem withdrawUnqualified_timing : (s.withdrawUnqualified).timing = s.timing := by rw [withdrawUnqualified_frame]
@[simp] theorem withdrawUnqualified_activeMap : (s.withdrawUnqualified).activeMap = s.activeMap := by rw [withdrawUnqualified_frame]
@[simp] theorem withdrawUnqualified_sessions : (s.withdrawUnqualified).sessions = s.sessions := by rw [withdrawUnqualified_frame]
@[simp] theorem withdrawUnqualified_everyone : (s.withdrawUnqualified).everyone = s.everyone := everyone_congr (withdrawUnqualified_sessions s)
@[simp] theorem withdrawUnqualified_claims : (s.withdrawUnqualified).claims = s.claims := by rw [withdrawUnqualified_frame]
@[simp] theorem withdrawUnqualified_staging : (s.withdrawUnqualified).staging = s.staging := by rw [withdrawUnqualified_frame]
@[simp] theorem withdrawUnqualified_commitQueue : (s.withdrawUnqualified).commitQueue = s.commitQueue := by rw [withdrawUnqualified_frame]
@[simp] theorem withdrawUnqualified_commitSeq : (s.withdrawUnqualified).commitSeq = s.commitSeq := by rw [withdrawUnqualified_frame]
@[simp] theorem withdrawUnqualified_assemblers : (s.withdrawUnqualified).assemblers = s.assemblers := by rw [withdrawUnqualified_frame]
@[simp] theorem withdrawUnqualified_subscriptions : (s.withdrawUnqualified).subscriptions = s.subscriptions := by rw [withdrawUnqualified_frame]
@[simp] theorem withdrawUnqualified_mailboxes : (s.withdrawUnqualified).mailboxes = s.mailboxes := by rw [withdrawUnqualified_frame]
@[simp] theorem withdrawUnqualified_txQueues : (s.withdrawUnqualified).txQueues = s.txQueues := by rw [withdrawUnqualified_frame]
@[simp] theorem withdrawUnqualified_messageIds : (s.withdrawUnqualified).messageIds = s.messageIds := by rw [withdrawUnqualified_frame]
@[simp] theorem withdrawUnqualified_ports : (s.withdrawUnqualified).ports = s.ports := by rw [withdrawUnqualified_frame]
@[simp] theorem withdrawUnqualified_events : (s.withdrawUnqualified).events = s.events := by rw [withdrawUnqualified_frame]
@[simp] theorem withdrawUnqualified_chmNotices : (s.withdrawUnqualified).chmNotices = s.chmNotices := by rw [withdrawUnqualified_frame]
@[simp] theorem withdrawUnqualified_rslNotices : (s.withdrawUnqualified).rslNotices = s.rslNotices := by rw [withdrawUnqualified_frame]
@[simp] theorem withdrawUnqualified_msuNotices : (s.withdrawUnqualified).msuNotices = s.msuNotices := by rw [withdrawUnqualified_frame]
@[simp] theorem withdrawUnqualified_evuNotices : (s.withdrawUnqualified).evuNotices = s.evuNotices := by rw [withdrawUnqualified_frame]
@[simp] theorem withdrawUnqualified_txNotices : (s.withdrawUnqualified).txNotices = s.txNotices := by rw [withdrawUnqualified_frame]
@[simp] theorem withdrawUnqualified_resetToReach : (s.withdrawUnqualified).resetToReach = s.resetToReach := by rw [withdrawUnqualified_frame]
@[simp] theorem withdrawUnqualified_pending : (s.withdrawUnqualified).pending = s.pending := by rw [withdrawUnqualified_frame]

theorem moveTo_frame (k : Option RowIx) :
    s.moveTo k = { s with selector := (s.moveTo k).selector, raised := (s.moveTo k).raised } := by
  unfold moveTo
  split <;> try rfl
  split <;> rfl

@[simp] theorem moveTo_now (k : Option RowIx) : (s.moveTo k).now = s.now := by rw [moveTo_frame]
@[simp] theorem moveTo_receivers (k : Option RowIx) : (s.moveTo k).receivers = s.receivers := by rw [moveTo_frame]
@[simp] theorem moveTo_stores (k : Option RowIx) : (s.moveTo k).stores = s.stores := by rw [moveTo_frame]
@[simp] theorem moveTo_transmitters (k : Option RowIx) : (s.moveTo k).transmitters = s.transmitters := by rw [moveTo_frame]
@[simp] theorem moveTo_timing (k : Option RowIx) : (s.moveTo k).timing = s.timing := by rw [moveTo_frame]
@[simp] theorem moveTo_activeMap (k : Option RowIx) : (s.moveTo k).activeMap = s.activeMap := by rw [moveTo_frame]
@[simp] theorem moveTo_sessions (k : Option RowIx) : (s.moveTo k).sessions = s.sessions := by rw [moveTo_frame]
@[simp] theorem moveTo_everyone (k : Option RowIx) : (s.moveTo k).everyone = s.everyone := everyone_congr (moveTo_sessions s k)
@[simp] theorem moveTo_claims (k : Option RowIx) : (s.moveTo k).claims = s.claims := by rw [moveTo_frame]
@[simp] theorem moveTo_staging (k : Option RowIx) : (s.moveTo k).staging = s.staging := by rw [moveTo_frame]
@[simp] theorem moveTo_commitQueue (k : Option RowIx) : (s.moveTo k).commitQueue = s.commitQueue := by rw [moveTo_frame]
@[simp] theorem moveTo_commitSeq (k : Option RowIx) : (s.moveTo k).commitSeq = s.commitSeq := by rw [moveTo_frame]
@[simp] theorem moveTo_assemblers (k : Option RowIx) : (s.moveTo k).assemblers = s.assemblers := by rw [moveTo_frame]
@[simp] theorem moveTo_subscriptions (k : Option RowIx) : (s.moveTo k).subscriptions = s.subscriptions := by rw [moveTo_frame]
@[simp] theorem moveTo_mailboxes (k : Option RowIx) : (s.moveTo k).mailboxes = s.mailboxes := by rw [moveTo_frame]
@[simp] theorem moveTo_txQueues (k : Option RowIx) : (s.moveTo k).txQueues = s.txQueues := by rw [moveTo_frame]
@[simp] theorem moveTo_messageIds (k : Option RowIx) : (s.moveTo k).messageIds = s.messageIds := by rw [moveTo_frame]
@[simp] theorem moveTo_ports (k : Option RowIx) : (s.moveTo k).ports = s.ports := by rw [moveTo_frame]
@[simp] theorem moveTo_events (k : Option RowIx) : (s.moveTo k).events = s.events := by rw [moveTo_frame]
@[simp] theorem moveTo_chmNotices (k : Option RowIx) : (s.moveTo k).chmNotices = s.chmNotices := by rw [moveTo_frame]
@[simp] theorem moveTo_rslNotices (k : Option RowIx) : (s.moveTo k).rslNotices = s.rslNotices := by rw [moveTo_frame]
@[simp] theorem moveTo_msuNotices (k : Option RowIx) : (s.moveTo k).msuNotices = s.msuNotices := by rw [moveTo_frame]
@[simp] theorem moveTo_evuNotices (k : Option RowIx) : (s.moveTo k).evuNotices = s.evuNotices := by rw [moveTo_frame]
@[simp] theorem moveTo_txNotices (k : Option RowIx) : (s.moveTo k).txNotices = s.txNotices := by rw [moveTo_frame]
@[simp] theorem moveTo_resetToReach (k : Option RowIx) : (s.moveTo k).resetToReach = s.resetToReach := by rw [moveTo_frame]
@[simp] theorem moveTo_pending (k : Option RowIx) : (s.moveTo k).pending = s.pending := by rw [moveTo_frame]

theorem recompute_frame :
    s.recompute = { s with selector := (s.recompute).selector, raised := (s.recompute).raised } := by
  unfold recompute; simp only
  generalize s.withdrawUnqualified.target = t
  rw [moveTo_frame, withdrawUnqualified_frame]

@[simp] theorem recompute_now : (s.recompute).now = s.now := by rw [recompute_frame]
@[simp] theorem recompute_receivers : (s.recompute).receivers = s.receivers := by rw [recompute_frame]
@[simp] theorem recompute_stores : (s.recompute).stores = s.stores := by rw [recompute_frame]
@[simp] theorem recompute_transmitters : (s.recompute).transmitters = s.transmitters := by rw [recompute_frame]
@[simp] theorem recompute_timing : (s.recompute).timing = s.timing := by rw [recompute_frame]
@[simp] theorem recompute_activeMap : (s.recompute).activeMap = s.activeMap := by rw [recompute_frame]
@[simp] theorem recompute_sessions : (s.recompute).sessions = s.sessions := by rw [recompute_frame]
@[simp] theorem recompute_everyone : (s.recompute).everyone = s.everyone := everyone_congr (recompute_sessions s)
@[simp] theorem recompute_claims : (s.recompute).claims = s.claims := by rw [recompute_frame]
@[simp] theorem recompute_staging : (s.recompute).staging = s.staging := by rw [recompute_frame]
@[simp] theorem recompute_commitQueue : (s.recompute).commitQueue = s.commitQueue := by rw [recompute_frame]
@[simp] theorem recompute_commitSeq : (s.recompute).commitSeq = s.commitSeq := by rw [recompute_frame]
@[simp] theorem recompute_assemblers : (s.recompute).assemblers = s.assemblers := by rw [recompute_frame]
@[simp] theorem recompute_subscriptions : (s.recompute).subscriptions = s.subscriptions := by rw [recompute_frame]
@[simp] theorem recompute_mailboxes : (s.recompute).mailboxes = s.mailboxes := by rw [recompute_frame]
@[simp] theorem recompute_txQueues : (s.recompute).txQueues = s.txQueues := by rw [recompute_frame]
@[simp] theorem recompute_messageIds : (s.recompute).messageIds = s.messageIds := by rw [recompute_frame]
@[simp] theorem recompute_ports : (s.recompute).ports = s.ports := by rw [recompute_frame]
@[simp] theorem recompute_events : (s.recompute).events = s.events := by rw [recompute_frame]
@[simp] theorem recompute_chmNotices : (s.recompute).chmNotices = s.chmNotices := by rw [recompute_frame]
@[simp] theorem recompute_rslNotices : (s.recompute).rslNotices = s.rslNotices := by rw [recompute_frame]
@[simp] theorem recompute_msuNotices : (s.recompute).msuNotices = s.msuNotices := by rw [recompute_frame]
@[simp] theorem recompute_evuNotices : (s.recompute).evuNotices = s.evuNotices := by rw [recompute_frame]
@[simp] theorem recompute_txNotices : (s.recompute).txNotices = s.txNotices := by rw [recompute_frame]
@[simp] theorem recompute_resetToReach : (s.recompute).resetToReach = s.resetToReach := by rw [recompute_frame]
@[simp] theorem recompute_pending : (s.recompute).pending = s.pending := by rw [recompute_frame]

theorem recomputeFailed_frame :
    s.recomputeFailed = { s with selector := (s.recomputeFailed).selector, raised := (s.recomputeFailed).raised } := by
  unfold recomputeFailed; simp only
  split <;> rw [withdrawUnqualified_frame] <;> rfl

@[simp] theorem recomputeFailed_now : (s.recomputeFailed).now = s.now := by rw [recomputeFailed_frame]
@[simp] theorem recomputeFailed_receivers : (s.recomputeFailed).receivers = s.receivers := by rw [recomputeFailed_frame]
@[simp] theorem recomputeFailed_stores : (s.recomputeFailed).stores = s.stores := by rw [recomputeFailed_frame]
@[simp] theorem recomputeFailed_transmitters : (s.recomputeFailed).transmitters = s.transmitters := by rw [recomputeFailed_frame]
@[simp] theorem recomputeFailed_timing : (s.recomputeFailed).timing = s.timing := by rw [recomputeFailed_frame]
@[simp] theorem recomputeFailed_activeMap : (s.recomputeFailed).activeMap = s.activeMap := by rw [recomputeFailed_frame]
@[simp] theorem recomputeFailed_sessions : (s.recomputeFailed).sessions = s.sessions := by rw [recomputeFailed_frame]
@[simp] theorem recomputeFailed_everyone : (s.recomputeFailed).everyone = s.everyone := everyone_congr (recomputeFailed_sessions s)
@[simp] theorem recomputeFailed_claims : (s.recomputeFailed).claims = s.claims := by rw [recomputeFailed_frame]
@[simp] theorem recomputeFailed_staging : (s.recomputeFailed).staging = s.staging := by rw [recomputeFailed_frame]
@[simp] theorem recomputeFailed_commitQueue : (s.recomputeFailed).commitQueue = s.commitQueue := by rw [recomputeFailed_frame]
@[simp] theorem recomputeFailed_commitSeq : (s.recomputeFailed).commitSeq = s.commitSeq := by rw [recomputeFailed_frame]
@[simp] theorem recomputeFailed_assemblers : (s.recomputeFailed).assemblers = s.assemblers := by rw [recomputeFailed_frame]
@[simp] theorem recomputeFailed_subscriptions : (s.recomputeFailed).subscriptions = s.subscriptions := by rw [recomputeFailed_frame]
@[simp] theorem recomputeFailed_mailboxes : (s.recomputeFailed).mailboxes = s.mailboxes := by rw [recomputeFailed_frame]
@[simp] theorem recomputeFailed_txQueues : (s.recomputeFailed).txQueues = s.txQueues := by rw [recomputeFailed_frame]
@[simp] theorem recomputeFailed_messageIds : (s.recomputeFailed).messageIds = s.messageIds := by rw [recomputeFailed_frame]
@[simp] theorem recomputeFailed_ports : (s.recomputeFailed).ports = s.ports := by rw [recomputeFailed_frame]
@[simp] theorem recomputeFailed_events : (s.recomputeFailed).events = s.events := by rw [recomputeFailed_frame]
@[simp] theorem recomputeFailed_chmNotices : (s.recomputeFailed).chmNotices = s.chmNotices := by rw [recomputeFailed_frame]
@[simp] theorem recomputeFailed_rslNotices : (s.recomputeFailed).rslNotices = s.rslNotices := by rw [recomputeFailed_frame]
@[simp] theorem recomputeFailed_msuNotices : (s.recomputeFailed).msuNotices = s.msuNotices := by rw [recomputeFailed_frame]
@[simp] theorem recomputeFailed_evuNotices : (s.recomputeFailed).evuNotices = s.evuNotices := by rw [recomputeFailed_frame]
@[simp] theorem recomputeFailed_txNotices : (s.recomputeFailed).txNotices = s.txNotices := by rw [recomputeFailed_frame]
@[simp] theorem recomputeFailed_resetToReach : (s.recomputeFailed).resetToReach = s.resetToReach := by rw [recomputeFailed_frame]
@[simp] theorem recomputeFailed_pending : (s.recomputeFailed).pending = s.pending := by rw [recomputeFailed_frame]

theorem reportSources_frame :
    s.reportSources = { s with selector := (s.reportSources).selector, raised := (s.reportSources).raised } := by
  unfold reportSources
  split
  · rfl
  · rw [recompute_frame]; rfl

@[simp] theorem reportSources_now : (s.reportSources).now = s.now := by rw [reportSources_frame]
@[simp] theorem reportSources_receivers : (s.reportSources).receivers = s.receivers := by rw [reportSources_frame]
@[simp] theorem reportSources_stores : (s.reportSources).stores = s.stores := by rw [reportSources_frame]
@[simp] theorem reportSources_transmitters : (s.reportSources).transmitters = s.transmitters := by rw [reportSources_frame]
@[simp] theorem reportSources_timing : (s.reportSources).timing = s.timing := by rw [reportSources_frame]
@[simp] theorem reportSources_activeMap : (s.reportSources).activeMap = s.activeMap := by rw [reportSources_frame]
@[simp] theorem reportSources_sessions : (s.reportSources).sessions = s.sessions := by rw [reportSources_frame]
@[simp] theorem reportSources_everyone : (s.reportSources).everyone = s.everyone := everyone_congr (reportSources_sessions s)
@[simp] theorem reportSources_claims : (s.reportSources).claims = s.claims := by rw [reportSources_frame]
@[simp] theorem reportSources_staging : (s.reportSources).staging = s.staging := by rw [reportSources_frame]
@[simp] theorem reportSources_commitQueue : (s.reportSources).commitQueue = s.commitQueue := by rw [reportSources_frame]
@[simp] theorem reportSources_commitSeq : (s.reportSources).commitSeq = s.commitSeq := by rw [reportSources_frame]
@[simp] theorem reportSources_assemblers : (s.reportSources).assemblers = s.assemblers := by rw [reportSources_frame]
@[simp] theorem reportSources_subscriptions : (s.reportSources).subscriptions = s.subscriptions := by rw [reportSources_frame]
@[simp] theorem reportSources_mailboxes : (s.reportSources).mailboxes = s.mailboxes := by rw [reportSources_frame]
@[simp] theorem reportSources_txQueues : (s.reportSources).txQueues = s.txQueues := by rw [reportSources_frame]
@[simp] theorem reportSources_messageIds : (s.reportSources).messageIds = s.messageIds := by rw [reportSources_frame]
@[simp] theorem reportSources_ports : (s.reportSources).ports = s.ports := by rw [reportSources_frame]
@[simp] theorem reportSources_events : (s.reportSources).events = s.events := by rw [reportSources_frame]
@[simp] theorem reportSources_chmNotices : (s.reportSources).chmNotices = s.chmNotices := by rw [reportSources_frame]
@[simp] theorem reportSources_rslNotices : (s.reportSources).rslNotices = s.rslNotices := by rw [reportSources_frame]
@[simp] theorem reportSources_msuNotices : (s.reportSources).msuNotices = s.msuNotices := by rw [reportSources_frame]
@[simp] theorem reportSources_evuNotices : (s.reportSources).evuNotices = s.evuNotices := by rw [reportSources_frame]
@[simp] theorem reportSources_txNotices : (s.reportSources).txNotices = s.txNotices := by rw [reportSources_frame]
@[simp] theorem reportSources_resetToReach : (s.reportSources).resetToReach = s.resetToReach := by rw [reportSources_frame]
@[simp] theorem reportSources_pending : (s.reportSources).pending = s.pending := by rw [reportSources_frame]

theorem captureFailure_frame (r : RowIx) :
    s.captureFailure r = { s with selector := (s.captureFailure r).selector, raised := (s.captureFailure r).raised } := by
  unfold captureFailure; rw [recomputeFailed_frame]; rfl

@[simp] theorem captureFailure_now (r : RowIx) : (s.captureFailure r).now = s.now := by rw [captureFailure_frame]
@[simp] theorem captureFailure_receivers (r : RowIx) : (s.captureFailure r).receivers = s.receivers := by rw [captureFailure_frame]
@[simp] theorem captureFailure_stores (r : RowIx) : (s.captureFailure r).stores = s.stores := by rw [captureFailure_frame]
@[simp] theorem captureFailure_transmitters (r : RowIx) : (s.captureFailure r).transmitters = s.transmitters := by rw [captureFailure_frame]
@[simp] theorem captureFailure_timing (r : RowIx) : (s.captureFailure r).timing = s.timing := by rw [captureFailure_frame]
@[simp] theorem captureFailure_activeMap (r : RowIx) : (s.captureFailure r).activeMap = s.activeMap := by rw [captureFailure_frame]
@[simp] theorem captureFailure_sessions (r : RowIx) : (s.captureFailure r).sessions = s.sessions := by rw [captureFailure_frame]
@[simp] theorem captureFailure_everyone (r : RowIx) : (s.captureFailure r).everyone = s.everyone := everyone_congr (captureFailure_sessions s r)
@[simp] theorem captureFailure_claims (r : RowIx) : (s.captureFailure r).claims = s.claims := by rw [captureFailure_frame]
@[simp] theorem captureFailure_staging (r : RowIx) : (s.captureFailure r).staging = s.staging := by rw [captureFailure_frame]
@[simp] theorem captureFailure_commitQueue (r : RowIx) : (s.captureFailure r).commitQueue = s.commitQueue := by rw [captureFailure_frame]
@[simp] theorem captureFailure_commitSeq (r : RowIx) : (s.captureFailure r).commitSeq = s.commitSeq := by rw [captureFailure_frame]
@[simp] theorem captureFailure_assemblers (r : RowIx) : (s.captureFailure r).assemblers = s.assemblers := by rw [captureFailure_frame]
@[simp] theorem captureFailure_subscriptions (r : RowIx) : (s.captureFailure r).subscriptions = s.subscriptions := by rw [captureFailure_frame]
@[simp] theorem captureFailure_mailboxes (r : RowIx) : (s.captureFailure r).mailboxes = s.mailboxes := by rw [captureFailure_frame]
@[simp] theorem captureFailure_txQueues (r : RowIx) : (s.captureFailure r).txQueues = s.txQueues := by rw [captureFailure_frame]
@[simp] theorem captureFailure_messageIds (r : RowIx) : (s.captureFailure r).messageIds = s.messageIds := by rw [captureFailure_frame]
@[simp] theorem captureFailure_ports (r : RowIx) : (s.captureFailure r).ports = s.ports := by rw [captureFailure_frame]
@[simp] theorem captureFailure_events (r : RowIx) : (s.captureFailure r).events = s.events := by rw [captureFailure_frame]
@[simp] theorem captureFailure_chmNotices (r : RowIx) : (s.captureFailure r).chmNotices = s.chmNotices := by rw [captureFailure_frame]
@[simp] theorem captureFailure_rslNotices (r : RowIx) : (s.captureFailure r).rslNotices = s.rslNotices := by rw [captureFailure_frame]
@[simp] theorem captureFailure_msuNotices (r : RowIx) : (s.captureFailure r).msuNotices = s.msuNotices := by rw [captureFailure_frame]
@[simp] theorem captureFailure_evuNotices (r : RowIx) : (s.captureFailure r).evuNotices = s.evuNotices := by rw [captureFailure_frame]
@[simp] theorem captureFailure_txNotices (r : RowIx) : (s.captureFailure r).txNotices = s.txNotices := by rw [captureFailure_frame]
@[simp] theorem captureFailure_resetToReach (r : RowIx) : (s.captureFailure r).resetToReach = s.resetToReach := by rw [captureFailure_frame]
@[simp] theorem captureFailure_pending (r : RowIx) : (s.captureFailure r).pending = s.pending := by rw [captureFailure_frame]

theorem applyHoldoverLimit_frame (l : Nat) :
    s.applyHoldoverLimit l = { s with selector := (s.applyHoldoverLimit l).selector, raised := (s.applyHoldoverLimit l).raised } := by
  unfold applyHoldoverLimit
  split
  · split
    · rfl
    · simp only; split <;> rfl
  · rfl

@[simp] theorem applyHoldoverLimit_now (l : Nat) : (s.applyHoldoverLimit l).now = s.now := by rw [applyHoldoverLimit_frame]
@[simp] theorem applyHoldoverLimit_receivers (l : Nat) : (s.applyHoldoverLimit l).receivers = s.receivers := by rw [applyHoldoverLimit_frame]
@[simp] theorem applyHoldoverLimit_stores (l : Nat) : (s.applyHoldoverLimit l).stores = s.stores := by rw [applyHoldoverLimit_frame]
@[simp] theorem applyHoldoverLimit_transmitters (l : Nat) : (s.applyHoldoverLimit l).transmitters = s.transmitters := by rw [applyHoldoverLimit_frame]
@[simp] theorem applyHoldoverLimit_timing (l : Nat) : (s.applyHoldoverLimit l).timing = s.timing := by rw [applyHoldoverLimit_frame]
@[simp] theorem applyHoldoverLimit_activeMap (l : Nat) : (s.applyHoldoverLimit l).activeMap = s.activeMap := by rw [applyHoldoverLimit_frame]
@[simp] theorem applyHoldoverLimit_sessions (l : Nat) : (s.applyHoldoverLimit l).sessions = s.sessions := by rw [applyHoldoverLimit_frame]
@[simp] theorem applyHoldoverLimit_everyone (l : Nat) : (s.applyHoldoverLimit l).everyone = s.everyone := everyone_congr (applyHoldoverLimit_sessions s l)
@[simp] theorem applyHoldoverLimit_claims (l : Nat) : (s.applyHoldoverLimit l).claims = s.claims := by rw [applyHoldoverLimit_frame]
@[simp] theorem applyHoldoverLimit_staging (l : Nat) : (s.applyHoldoverLimit l).staging = s.staging := by rw [applyHoldoverLimit_frame]
@[simp] theorem applyHoldoverLimit_commitQueue (l : Nat) : (s.applyHoldoverLimit l).commitQueue = s.commitQueue := by rw [applyHoldoverLimit_frame]
@[simp] theorem applyHoldoverLimit_commitSeq (l : Nat) : (s.applyHoldoverLimit l).commitSeq = s.commitSeq := by rw [applyHoldoverLimit_frame]
@[simp] theorem applyHoldoverLimit_assemblers (l : Nat) : (s.applyHoldoverLimit l).assemblers = s.assemblers := by rw [applyHoldoverLimit_frame]
@[simp] theorem applyHoldoverLimit_subscriptions (l : Nat) : (s.applyHoldoverLimit l).subscriptions = s.subscriptions := by rw [applyHoldoverLimit_frame]
@[simp] theorem applyHoldoverLimit_mailboxes (l : Nat) : (s.applyHoldoverLimit l).mailboxes = s.mailboxes := by rw [applyHoldoverLimit_frame]
@[simp] theorem applyHoldoverLimit_txQueues (l : Nat) : (s.applyHoldoverLimit l).txQueues = s.txQueues := by rw [applyHoldoverLimit_frame]
@[simp] theorem applyHoldoverLimit_messageIds (l : Nat) : (s.applyHoldoverLimit l).messageIds = s.messageIds := by rw [applyHoldoverLimit_frame]
@[simp] theorem applyHoldoverLimit_ports (l : Nat) : (s.applyHoldoverLimit l).ports = s.ports := by rw [applyHoldoverLimit_frame]
@[simp] theorem applyHoldoverLimit_events (l : Nat) : (s.applyHoldoverLimit l).events = s.events := by rw [applyHoldoverLimit_frame]
@[simp] theorem applyHoldoverLimit_chmNotices (l : Nat) : (s.applyHoldoverLimit l).chmNotices = s.chmNotices := by rw [applyHoldoverLimit_frame]
@[simp] theorem applyHoldoverLimit_rslNotices (l : Nat) : (s.applyHoldoverLimit l).rslNotices = s.rslNotices := by rw [applyHoldoverLimit_frame]
@[simp] theorem applyHoldoverLimit_msuNotices (l : Nat) : (s.applyHoldoverLimit l).msuNotices = s.msuNotices := by rw [applyHoldoverLimit_frame]
@[simp] theorem applyHoldoverLimit_evuNotices (l : Nat) : (s.applyHoldoverLimit l).evuNotices = s.evuNotices := by rw [applyHoldoverLimit_frame]
@[simp] theorem applyHoldoverLimit_txNotices (l : Nat) : (s.applyHoldoverLimit l).txNotices = s.txNotices := by rw [applyHoldoverLimit_frame]
@[simp] theorem applyHoldoverLimit_resetToReach (l : Nat) : (s.applyHoldoverLimit l).resetToReach = s.resetToReach := by rw [applyHoldoverLimit_frame]
@[simp] theorem applyHoldoverLimit_pending (l : Nat) : (s.applyHoldoverLimit l).pending = s.pending := by rw [applyHoldoverLimit_frame]

theorem testCapture_frame (r : RowIx) :
    s.testCapture r = { s with selector := (s.testCapture r).selector, raised := (s.testCapture r).raised } := by
  unfold testCapture; simp only
  split
  · rfl
  · split
    · rfl
    · rw [captureFailure_frame]; rfl

@[simp] theorem testCapture_now (r : RowIx) : (s.testCapture r).now = s.now := by rw [testCapture_frame]
@[simp] theorem testCapture_receivers (r : RowIx) : (s.testCapture r).receivers = s.receivers := by rw [testCapture_frame]
@[simp] theorem testCapture_stores (r : RowIx) : (s.testCapture r).stores = s.stores := by rw [testCapture_frame]
@[simp] theorem testCapture_transmitters (r : RowIx) : (s.testCapture r).transmitters = s.transmitters := by rw [testCapture_frame]
@[simp] theorem testCapture_timing (r : RowIx) : (s.testCapture r).timing = s.timing := by rw [testCapture_frame]
@[simp] theorem testCapture_activeMap (r : RowIx) : (s.testCapture r).activeMap = s.activeMap := by rw [testCapture_frame]
@[simp] theorem testCapture_sessions (r : RowIx) : (s.testCapture r).sessions = s.sessions := by rw [testCapture_frame]
@[simp] theorem testCapture_everyone (r : RowIx) : (s.testCapture r).everyone = s.everyone := everyone_congr (testCapture_sessions s r)
@[simp] theorem testCapture_claims (r : RowIx) : (s.testCapture r).claims = s.claims := by rw [testCapture_frame]
@[simp] theorem testCapture_staging (r : RowIx) : (s.testCapture r).staging = s.staging := by rw [testCapture_frame]
@[simp] theorem testCapture_commitQueue (r : RowIx) : (s.testCapture r).commitQueue = s.commitQueue := by rw [testCapture_frame]
@[simp] theorem testCapture_commitSeq (r : RowIx) : (s.testCapture r).commitSeq = s.commitSeq := by rw [testCapture_frame]
@[simp] theorem testCapture_assemblers (r : RowIx) : (s.testCapture r).assemblers = s.assemblers := by rw [testCapture_frame]
@[simp] theorem testCapture_subscriptions (r : RowIx) : (s.testCapture r).subscriptions = s.subscriptions := by rw [testCapture_frame]
@[simp] theorem testCapture_mailboxes (r : RowIx) : (s.testCapture r).mailboxes = s.mailboxes := by rw [testCapture_frame]
@[simp] theorem testCapture_txQueues (r : RowIx) : (s.testCapture r).txQueues = s.txQueues := by rw [testCapture_frame]
@[simp] theorem testCapture_messageIds (r : RowIx) : (s.testCapture r).messageIds = s.messageIds := by rw [testCapture_frame]
@[simp] theorem testCapture_ports (r : RowIx) : (s.testCapture r).ports = s.ports := by rw [testCapture_frame]
@[simp] theorem testCapture_events (r : RowIx) : (s.testCapture r).events = s.events := by rw [testCapture_frame]
@[simp] theorem testCapture_chmNotices (r : RowIx) : (s.testCapture r).chmNotices = s.chmNotices := by rw [testCapture_frame]
@[simp] theorem testCapture_rslNotices (r : RowIx) : (s.testCapture r).rslNotices = s.rslNotices := by rw [testCapture_frame]
@[simp] theorem testCapture_msuNotices (r : RowIx) : (s.testCapture r).msuNotices = s.msuNotices := by rw [testCapture_frame]
@[simp] theorem testCapture_evuNotices (r : RowIx) : (s.testCapture r).evuNotices = s.evuNotices := by rw [testCapture_frame]
@[simp] theorem testCapture_txNotices (r : RowIx) : (s.testCapture r).txNotices = s.txNotices := by rw [testCapture_frame]
@[simp] theorem testCapture_resetToReach (r : RowIx) : (s.testCapture r).resetToReach = s.resetToReach := by rw [testCapture_frame]
@[simp] theorem testCapture_pending (r : RowIx) : (s.testCapture r).pending = s.pending := by rw [testCapture_frame]

theorem testLock_frame (r : RowIx) :
    s.testLock r = { s with selector := (s.testLock r).selector, raised := (s.testLock r).raised } := by
  unfold testLock; simp only
  split <;> rfl

@[simp] theorem testLock_now (r : RowIx) : (s.testLock r).now = s.now := by rw [testLock_frame]
@[simp] theorem testLock_receivers (r : RowIx) : (s.testLock r).receivers = s.receivers := by rw [testLock_frame]
@[simp] theorem testLock_stores (r : RowIx) : (s.testLock r).stores = s.stores := by rw [testLock_frame]
@[simp] theorem testLock_transmitters (r : RowIx) : (s.testLock r).transmitters = s.transmitters := by rw [testLock_frame]
@[simp] theorem testLock_timing (r : RowIx) : (s.testLock r).timing = s.timing := by rw [testLock_frame]
@[simp] theorem testLock_activeMap (r : RowIx) : (s.testLock r).activeMap = s.activeMap := by rw [testLock_frame]
@[simp] theorem testLock_sessions (r : RowIx) : (s.testLock r).sessions = s.sessions := by rw [testLock_frame]
@[simp] theorem testLock_everyone (r : RowIx) : (s.testLock r).everyone = s.everyone := everyone_congr (testLock_sessions s r)
@[simp] theorem testLock_claims (r : RowIx) : (s.testLock r).claims = s.claims := by rw [testLock_frame]
@[simp] theorem testLock_staging (r : RowIx) : (s.testLock r).staging = s.staging := by rw [testLock_frame]
@[simp] theorem testLock_commitQueue (r : RowIx) : (s.testLock r).commitQueue = s.commitQueue := by rw [testLock_frame]
@[simp] theorem testLock_commitSeq (r : RowIx) : (s.testLock r).commitSeq = s.commitSeq := by rw [testLock_frame]
@[simp] theorem testLock_assemblers (r : RowIx) : (s.testLock r).assemblers = s.assemblers := by rw [testLock_frame]
@[simp] theorem testLock_subscriptions (r : RowIx) : (s.testLock r).subscriptions = s.subscriptions := by rw [testLock_frame]
@[simp] theorem testLock_mailboxes (r : RowIx) : (s.testLock r).mailboxes = s.mailboxes := by rw [testLock_frame]
@[simp] theorem testLock_txQueues (r : RowIx) : (s.testLock r).txQueues = s.txQueues := by rw [testLock_frame]
@[simp] theorem testLock_messageIds (r : RowIx) : (s.testLock r).messageIds = s.messageIds := by rw [testLock_frame]
@[simp] theorem testLock_ports (r : RowIx) : (s.testLock r).ports = s.ports := by rw [testLock_frame]
@[simp] theorem testLock_events (r : RowIx) : (s.testLock r).events = s.events := by rw [testLock_frame]
@[simp] theorem testLock_chmNotices (r : RowIx) : (s.testLock r).chmNotices = s.chmNotices := by rw [testLock_frame]
@[simp] theorem testLock_rslNotices (r : RowIx) : (s.testLock r).rslNotices = s.rslNotices := by rw [testLock_frame]
@[simp] theorem testLock_msuNotices (r : RowIx) : (s.testLock r).msuNotices = s.msuNotices := by rw [testLock_frame]
@[simp] theorem testLock_evuNotices (r : RowIx) : (s.testLock r).evuNotices = s.evuNotices := by rw [testLock_frame]
@[simp] theorem testLock_txNotices (r : RowIx) : (s.testLock r).txNotices = s.txNotices := by rw [testLock_frame]
@[simp] theorem testLock_resetToReach (r : RowIx) : (s.testLock r).resetToReach = s.resetToReach := by rw [testLock_frame]
@[simp] theorem testLock_pending (r : RowIx) : (s.testLock r).pending = s.pending := by rw [testLock_frame]

theorem selectorBoundary_frame :
    s.selectorBoundary = { s with selector := (s.selectorBoundary).selector, raised := (s.selectorBoundary).raised } := by
  unfold selectorBoundary
  split
  · rw [testCapture_frame]
  · rw [testLock_frame]
  all_goals rfl

@[simp] theorem selectorBoundary_now : (s.selectorBoundary).now = s.now := by rw [selectorBoundary_frame]
@[simp] theorem selectorBoundary_receivers : (s.selectorBoundary).receivers = s.receivers := by rw [selectorBoundary_frame]
@[simp] theorem selectorBoundary_stores : (s.selectorBoundary).stores = s.stores := by rw [selectorBoundary_frame]
@[simp] theorem selectorBoundary_transmitters : (s.selectorBoundary).transmitters = s.transmitters := by rw [selectorBoundary_frame]
@[simp] theorem selectorBoundary_timing : (s.selectorBoundary).timing = s.timing := by rw [selectorBoundary_frame]
@[simp] theorem selectorBoundary_activeMap : (s.selectorBoundary).activeMap = s.activeMap := by rw [selectorBoundary_frame]
@[simp] theorem selectorBoundary_sessions : (s.selectorBoundary).sessions = s.sessions := by rw [selectorBoundary_frame]
@[simp] theorem selectorBoundary_everyone : (s.selectorBoundary).everyone = s.everyone := everyone_congr (selectorBoundary_sessions s)
@[simp] theorem selectorBoundary_claims : (s.selectorBoundary).claims = s.claims := by rw [selectorBoundary_frame]
@[simp] theorem selectorBoundary_staging : (s.selectorBoundary).staging = s.staging := by rw [selectorBoundary_frame]
@[simp] theorem selectorBoundary_commitQueue : (s.selectorBoundary).commitQueue = s.commitQueue := by rw [selectorBoundary_frame]
@[simp] theorem selectorBoundary_commitSeq : (s.selectorBoundary).commitSeq = s.commitSeq := by rw [selectorBoundary_frame]
@[simp] theorem selectorBoundary_assemblers : (s.selectorBoundary).assemblers = s.assemblers := by rw [selectorBoundary_frame]
@[simp] theorem selectorBoundary_subscriptions : (s.selectorBoundary).subscriptions = s.subscriptions := by rw [selectorBoundary_frame]
@[simp] theorem selectorBoundary_mailboxes : (s.selectorBoundary).mailboxes = s.mailboxes := by rw [selectorBoundary_frame]
@[simp] theorem selectorBoundary_txQueues : (s.selectorBoundary).txQueues = s.txQueues := by rw [selectorBoundary_frame]
@[simp] theorem selectorBoundary_messageIds : (s.selectorBoundary).messageIds = s.messageIds := by rw [selectorBoundary_frame]
@[simp] theorem selectorBoundary_ports : (s.selectorBoundary).ports = s.ports := by rw [selectorBoundary_frame]
@[simp] theorem selectorBoundary_events : (s.selectorBoundary).events = s.events := by rw [selectorBoundary_frame]
@[simp] theorem selectorBoundary_chmNotices : (s.selectorBoundary).chmNotices = s.chmNotices := by rw [selectorBoundary_frame]
@[simp] theorem selectorBoundary_rslNotices : (s.selectorBoundary).rslNotices = s.rslNotices := by rw [selectorBoundary_frame]
@[simp] theorem selectorBoundary_msuNotices : (s.selectorBoundary).msuNotices = s.msuNotices := by rw [selectorBoundary_frame]
@[simp] theorem selectorBoundary_evuNotices : (s.selectorBoundary).evuNotices = s.evuNotices := by rw [selectorBoundary_frame]
@[simp] theorem selectorBoundary_txNotices : (s.selectorBoundary).txNotices = s.txNotices := by rw [selectorBoundary_frame]
@[simp] theorem selectorBoundary_resetToReach : (s.selectorBoundary).resetToReach = s.resetToReach := by rw [selectorBoundary_frame]
@[simp] theorem selectorBoundary_pending : (s.selectorBoundary).pending = s.pending := by rw [selectorBoundary_frame]

theorem take_frame :
    s.take = { s with activeMap := (s.take).activeMap, commitQueue := (s.take).commitQueue, raised := (s.take).raised } := by
  unfold take
  split
  · rfl
  · split
    · rfl
    · simp only; split
      · unfold rejectSet; split <;> rfl
      · rfl

@[simp] theorem take_now : (s.take).now = s.now := by rw [take_frame]
@[simp] theorem take_receivers : (s.take).receivers = s.receivers := by rw [take_frame]
@[simp] theorem take_stores : (s.take).stores = s.stores := by rw [take_frame]
@[simp] theorem take_transmitters : (s.take).transmitters = s.transmitters := by rw [take_frame]
@[simp] theorem take_timing : (s.take).timing = s.timing := by rw [take_frame]
@[simp] theorem take_selector : (s.take).selector = s.selector := by rw [take_frame]
@[simp] theorem take_sessions : (s.take).sessions = s.sessions := by rw [take_frame]
@[simp] theorem take_everyone : (s.take).everyone = s.everyone := everyone_congr (take_sessions s)
@[simp] theorem take_claims : (s.take).claims = s.claims := by rw [take_frame]
@[simp] theorem take_staging : (s.take).staging = s.staging := by rw [take_frame]
@[simp] theorem take_commitSeq : (s.take).commitSeq = s.commitSeq := by rw [take_frame]
@[simp] theorem take_assemblers : (s.take).assemblers = s.assemblers := by rw [take_frame]
@[simp] theorem take_subscriptions : (s.take).subscriptions = s.subscriptions := by rw [take_frame]
@[simp] theorem take_mailboxes : (s.take).mailboxes = s.mailboxes := by rw [take_frame]
@[simp] theorem take_txQueues : (s.take).txQueues = s.txQueues := by rw [take_frame]
@[simp] theorem take_messageIds : (s.take).messageIds = s.messageIds := by rw [take_frame]
@[simp] theorem take_ports : (s.take).ports = s.ports := by rw [take_frame]
@[simp] theorem take_events : (s.take).events = s.events := by rw [take_frame]
@[simp] theorem take_chmNotices : (s.take).chmNotices = s.chmNotices := by rw [take_frame]
@[simp] theorem take_rslNotices : (s.take).rslNotices = s.rslNotices := by rw [take_frame]
@[simp] theorem take_msuNotices : (s.take).msuNotices = s.msuNotices := by rw [take_frame]
@[simp] theorem take_evuNotices : (s.take).evuNotices = s.evuNotices := by rw [take_frame]
@[simp] theorem take_txNotices : (s.take).txNotices = s.txNotices := by rw [take_frame]
@[simp] theorem take_resetToReach : (s.take).resetToReach = s.resetToReach := by rw [take_frame]
@[simp] theorem take_pending : (s.take).pending = s.pending := by rw [take_frame]

theorem completeMessage_frame (n : Link) (w : List Byte) :
    s.completeMessage n w = { s with assemblers := (s.completeMessage n w).assemblers, mailboxes := (s.completeMessage n w).mailboxes, raised := (s.completeMessage n w).raised } := by
  unfold completeMessage; split <;> rfl

theorem sideItem_frame (n : Link) (i : SideItem) :
    s.sideItem n i = { s with assemblers := (s.sideItem n i).assemblers, mailboxes := (s.sideItem n i).mailboxes, raised := (s.sideItem n i).raised } := by
  unfold sideItem; simp only; split
  · rfl
  · rw [completeMessage_frame]; rfl

@[simp] theorem sideItem_now (n : Link) (i : SideItem) : (s.sideItem n i).now = s.now := by rw [sideItem_frame]
@[simp] theorem sideItem_receivers (n : Link) (i : SideItem) : (s.sideItem n i).receivers = s.receivers := by rw [sideItem_frame]
@[simp] theorem sideItem_stores (n : Link) (i : SideItem) : (s.sideItem n i).stores = s.stores := by rw [sideItem_frame]
@[simp] theorem sideItem_transmitters (n : Link) (i : SideItem) : (s.sideItem n i).transmitters = s.transmitters := by rw [sideItem_frame]
@[simp] theorem sideItem_timing (n : Link) (i : SideItem) : (s.sideItem n i).timing = s.timing := by rw [sideItem_frame]
@[simp] theorem sideItem_selector (n : Link) (i : SideItem) : (s.sideItem n i).selector = s.selector := by rw [sideItem_frame]
@[simp] theorem sideItem_activeMap (n : Link) (i : SideItem) : (s.sideItem n i).activeMap = s.activeMap := by rw [sideItem_frame]
@[simp] theorem sideItem_sessions (n : Link) (i : SideItem) : (s.sideItem n i).sessions = s.sessions := by rw [sideItem_frame]
@[simp] theorem sideItem_everyone (n : Link) (i : SideItem) : (s.sideItem n i).everyone = s.everyone := everyone_congr (sideItem_sessions s n i)
@[simp] theorem sideItem_claims (n : Link) (i : SideItem) : (s.sideItem n i).claims = s.claims := by rw [sideItem_frame]
@[simp] theorem sideItem_staging (n : Link) (i : SideItem) : (s.sideItem n i).staging = s.staging := by rw [sideItem_frame]
@[simp] theorem sideItem_commitQueue (n : Link) (i : SideItem) : (s.sideItem n i).commitQueue = s.commitQueue := by rw [sideItem_frame]
@[simp] theorem sideItem_commitSeq (n : Link) (i : SideItem) : (s.sideItem n i).commitSeq = s.commitSeq := by rw [sideItem_frame]
@[simp] theorem sideItem_subscriptions (n : Link) (i : SideItem) : (s.sideItem n i).subscriptions = s.subscriptions := by rw [sideItem_frame]
@[simp] theorem sideItem_txQueues (n : Link) (i : SideItem) : (s.sideItem n i).txQueues = s.txQueues := by rw [sideItem_frame]
@[simp] theorem sideItem_messageIds (n : Link) (i : SideItem) : (s.sideItem n i).messageIds = s.messageIds := by rw [sideItem_frame]
@[simp] theorem sideItem_ports (n : Link) (i : SideItem) : (s.sideItem n i).ports = s.ports := by rw [sideItem_frame]
@[simp] theorem sideItem_events (n : Link) (i : SideItem) : (s.sideItem n i).events = s.events := by rw [sideItem_frame]
@[simp] theorem sideItem_chmNotices (n : Link) (i : SideItem) : (s.sideItem n i).chmNotices = s.chmNotices := by rw [sideItem_frame]
@[simp] theorem sideItem_rslNotices (n : Link) (i : SideItem) : (s.sideItem n i).rslNotices = s.rslNotices := by rw [sideItem_frame]
@[simp] theorem sideItem_msuNotices (n : Link) (i : SideItem) : (s.sideItem n i).msuNotices = s.msuNotices := by rw [sideItem_frame]
@[simp] theorem sideItem_evuNotices (n : Link) (i : SideItem) : (s.sideItem n i).evuNotices = s.evuNotices := by rw [sideItem_frame]
@[simp] theorem sideItem_txNotices (n : Link) (i : SideItem) : (s.sideItem n i).txNotices = s.txNotices := by rw [sideItem_frame]
@[simp] theorem sideItem_resetToReach (n : Link) (i : SideItem) : (s.sideItem n i).resetToReach = s.resetToReach := by rw [sideItem_frame]
@[simp] theorem sideItem_pending (n : Link) (i : SideItem) : (s.sideItem n i).pending = s.pending := by rw [sideItem_frame]

theorem appendFrame_frame (n : Link) (f : Samples) :
    s.appendFrame n f = { s with stores := (s.appendFrame n f).stores, raised := (s.appendFrame n f).raised } := by
  unfold appendFrame; simp only; split <;> rfl

@[simp] theorem appendFrame_now (n : Link) (f : Samples) : (s.appendFrame n f).now = s.now := by rw [appendFrame_frame]
@[simp] theorem appendFrame_receivers (n : Link) (f : Samples) : (s.appendFrame n f).receivers = s.receivers := by rw [appendFrame_frame]
@[simp] theorem appendFrame_transmitters (n : Link) (f : Samples) : (s.appendFrame n f).transmitters = s.transmitters := by rw [appendFrame_frame]
@[simp] theorem appendFrame_timing (n : Link) (f : Samples) : (s.appendFrame n f).timing = s.timing := by rw [appendFrame_frame]
@[simp] theorem appendFrame_selector (n : Link) (f : Samples) : (s.appendFrame n f).selector = s.selector := by rw [appendFrame_frame]
@[simp] theorem appendFrame_activeMap (n : Link) (f : Samples) : (s.appendFrame n f).activeMap = s.activeMap := by rw [appendFrame_frame]
@[simp] theorem appendFrame_sessions (n : Link) (f : Samples) : (s.appendFrame n f).sessions = s.sessions := by rw [appendFrame_frame]
@[simp] theorem appendFrame_everyone (n : Link) (f : Samples) : (s.appendFrame n f).everyone = s.everyone := everyone_congr (appendFrame_sessions s n f)
@[simp] theorem appendFrame_claims (n : Link) (f : Samples) : (s.appendFrame n f).claims = s.claims := by rw [appendFrame_frame]
@[simp] theorem appendFrame_staging (n : Link) (f : Samples) : (s.appendFrame n f).staging = s.staging := by rw [appendFrame_frame]
@[simp] theorem appendFrame_commitQueue (n : Link) (f : Samples) : (s.appendFrame n f).commitQueue = s.commitQueue := by rw [appendFrame_frame]
@[simp] theorem appendFrame_commitSeq (n : Link) (f : Samples) : (s.appendFrame n f).commitSeq = s.commitSeq := by rw [appendFrame_frame]
@[simp] theorem appendFrame_assemblers (n : Link) (f : Samples) : (s.appendFrame n f).assemblers = s.assemblers := by rw [appendFrame_frame]
@[simp] theorem appendFrame_subscriptions (n : Link) (f : Samples) : (s.appendFrame n f).subscriptions = s.subscriptions := by rw [appendFrame_frame]
@[simp] theorem appendFrame_mailboxes (n : Link) (f : Samples) : (s.appendFrame n f).mailboxes = s.mailboxes := by rw [appendFrame_frame]
@[simp] theorem appendFrame_txQueues (n : Link) (f : Samples) : (s.appendFrame n f).txQueues = s.txQueues := by rw [appendFrame_frame]
@[simp] theorem appendFrame_messageIds (n : Link) (f : Samples) : (s.appendFrame n f).messageIds = s.messageIds := by rw [appendFrame_frame]
@[simp] theorem appendFrame_ports (n : Link) (f : Samples) : (s.appendFrame n f).ports = s.ports := by rw [appendFrame_frame]
@[simp] theorem appendFrame_events (n : Link) (f : Samples) : (s.appendFrame n f).events = s.events := by rw [appendFrame_frame]
@[simp] theorem appendFrame_chmNotices (n : Link) (f : Samples) : (s.appendFrame n f).chmNotices = s.chmNotices := by rw [appendFrame_frame]
@[simp] theorem appendFrame_rslNotices (n : Link) (f : Samples) : (s.appendFrame n f).rslNotices = s.rslNotices := by rw [appendFrame_frame]
@[simp] theorem appendFrame_msuNotices (n : Link) (f : Samples) : (s.appendFrame n f).msuNotices = s.msuNotices := by rw [appendFrame_frame]
@[simp] theorem appendFrame_evuNotices (n : Link) (f : Samples) : (s.appendFrame n f).evuNotices = s.evuNotices := by rw [appendFrame_frame]
@[simp] theorem appendFrame_txNotices (n : Link) (f : Samples) : (s.appendFrame n f).txNotices = s.txNotices := by rw [appendFrame_frame]
@[simp] theorem appendFrame_resetToReach (n : Link) (f : Samples) : (s.appendFrame n f).resetToReach = s.resetToReach := by rw [appendFrame_frame]
@[simp] theorem appendFrame_pending (n : Link) (f : Samples) : (s.appendFrame n f).pending = s.pending := by rw [appendFrame_frame]

theorem leaveTo_frame (n : Link) (f : Receiver → Receiver) :
    s.leaveTo n f = { s with receivers := (s.leaveTo n f).receivers, stores := (s.leaveTo n f).stores, assemblers := (s.leaveTo n f).assemblers, mailboxes := (s.leaveTo n f).mailboxes, raised := (s.leaveTo n f).raised } := by
  unfold leaveTo; simp only; split
  · rw [sideItem_frame]; rfl
  · rfl

@[simp] theorem leaveTo_now (n : Link) (f : Receiver → Receiver) : (s.leaveTo n f).now = s.now := by rw [leaveTo_frame]
@[simp] theorem leaveTo_transmitters (n : Link) (f : Receiver → Receiver) : (s.leaveTo n f).transmitters = s.transmitters := by rw [leaveTo_frame]
@[simp] theorem leaveTo_timing (n : Link) (f : Receiver → Receiver) : (s.leaveTo n f).timing = s.timing := by rw [leaveTo_frame]
@[simp] theorem leaveTo_selector (n : Link) (f : Receiver → Receiver) : (s.leaveTo n f).selector = s.selector := by rw [leaveTo_frame]
@[simp] theorem leaveTo_activeMap (n : Link) (f : Receiver → Receiver) : (s.leaveTo n f).activeMap = s.activeMap := by rw [leaveTo_frame]
@[simp] theorem leaveTo_sessions (n : Link) (f : Receiver → Receiver) : (s.leaveTo n f).sessions = s.sessions := by rw [leaveTo_frame]
@[simp] theorem leaveTo_everyone (n : Link) (f : Receiver → Receiver) : (s.leaveTo n f).everyone = s.everyone := everyone_congr (leaveTo_sessions s n f)
@[simp] theorem leaveTo_claims (n : Link) (f : Receiver → Receiver) : (s.leaveTo n f).claims = s.claims := by rw [leaveTo_frame]
@[simp] theorem leaveTo_staging (n : Link) (f : Receiver → Receiver) : (s.leaveTo n f).staging = s.staging := by rw [leaveTo_frame]
@[simp] theorem leaveTo_commitQueue (n : Link) (f : Receiver → Receiver) : (s.leaveTo n f).commitQueue = s.commitQueue := by rw [leaveTo_frame]
@[simp] theorem leaveTo_commitSeq (n : Link) (f : Receiver → Receiver) : (s.leaveTo n f).commitSeq = s.commitSeq := by rw [leaveTo_frame]
@[simp] theorem leaveTo_subscriptions (n : Link) (f : Receiver → Receiver) : (s.leaveTo n f).subscriptions = s.subscriptions := by rw [leaveTo_frame]
@[simp] theorem leaveTo_txQueues (n : Link) (f : Receiver → Receiver) : (s.leaveTo n f).txQueues = s.txQueues := by rw [leaveTo_frame]
@[simp] theorem leaveTo_messageIds (n : Link) (f : Receiver → Receiver) : (s.leaveTo n f).messageIds = s.messageIds := by rw [leaveTo_frame]
@[simp] theorem leaveTo_ports (n : Link) (f : Receiver → Receiver) : (s.leaveTo n f).ports = s.ports := by rw [leaveTo_frame]
@[simp] theorem leaveTo_events (n : Link) (f : Receiver → Receiver) : (s.leaveTo n f).events = s.events := by rw [leaveTo_frame]
@[simp] theorem leaveTo_chmNotices (n : Link) (f : Receiver → Receiver) : (s.leaveTo n f).chmNotices = s.chmNotices := by rw [leaveTo_frame]
@[simp] theorem leaveTo_rslNotices (n : Link) (f : Receiver → Receiver) : (s.leaveTo n f).rslNotices = s.rslNotices := by rw [leaveTo_frame]
@[simp] theorem leaveTo_msuNotices (n : Link) (f : Receiver → Receiver) : (s.leaveTo n f).msuNotices = s.msuNotices := by rw [leaveTo_frame]
@[simp] theorem leaveTo_evuNotices (n : Link) (f : Receiver → Receiver) : (s.leaveTo n f).evuNotices = s.evuNotices := by rw [leaveTo_frame]
@[simp] theorem leaveTo_txNotices (n : Link) (f : Receiver → Receiver) : (s.leaveTo n f).txNotices = s.txNotices := by rw [leaveTo_frame]
@[simp] theorem leaveTo_resetToReach (n : Link) (f : Receiver → Receiver) : (s.leaveTo n f).resetToReach = s.resetToReach := by rw [leaveTo_frame]
@[simp] theorem leaveTo_pending (n : Link) (f : Receiver → Receiver) : (s.leaveTo n f).pending = s.pending := by rw [leaveTo_frame]

theorem windowFrame_frame (n : Link) (b : Bool) :
    s.windowFrame n b = { s with receivers := (s.windowFrame n b).receivers, raised := (s.windowFrame n b).raised } := by
  unfold windowFrame; simp only; split <;> rfl

@[simp] theorem windowFrame_now (n : Link) (b : Bool) : (s.windowFrame n b).now = s.now := by rw [windowFrame_frame]
@[simp] theorem windowFrame_stores (n : Link) (b : Bool) : (s.windowFrame n b).stores = s.stores := by rw [windowFrame_frame]
@[simp] theorem windowFrame_transmitters (n : Link) (b : Bool) : (s.windowFrame n b).transmitters = s.transmitters := by rw [windowFrame_frame]
@[simp] theorem windowFrame_timing (n : Link) (b : Bool) : (s.windowFrame n b).timing = s.timing := by rw [windowFrame_frame]
@[simp] theorem windowFrame_selector (n : Link) (b : Bool) : (s.windowFrame n b).selector = s.selector := by rw [windowFrame_frame]
@[simp] theorem windowFrame_activeMap (n : Link) (b : Bool) : (s.windowFrame n b).activeMap = s.activeMap := by rw [windowFrame_frame]
@[simp] theorem windowFrame_sessions (n : Link) (b : Bool) : (s.windowFrame n b).sessions = s.sessions := by rw [windowFrame_frame]
@[simp] theorem windowFrame_everyone (n : Link) (b : Bool) : (s.windowFrame n b).everyone = s.everyone := everyone_congr (windowFrame_sessions s n b)
@[simp] theorem windowFrame_claims (n : Link) (b : Bool) : (s.windowFrame n b).claims = s.claims := by rw [windowFrame_frame]
@[simp] theorem windowFrame_staging (n : Link) (b : Bool) : (s.windowFrame n b).staging = s.staging := by rw [windowFrame_frame]
@[simp] theorem windowFrame_commitQueue (n : Link) (b : Bool) : (s.windowFrame n b).commitQueue = s.commitQueue := by rw [windowFrame_frame]
@[simp] theorem windowFrame_commitSeq (n : Link) (b : Bool) : (s.windowFrame n b).commitSeq = s.commitSeq := by rw [windowFrame_frame]
@[simp] theorem windowFrame_assemblers (n : Link) (b : Bool) : (s.windowFrame n b).assemblers = s.assemblers := by rw [windowFrame_frame]
@[simp] theorem windowFrame_subscriptions (n : Link) (b : Bool) : (s.windowFrame n b).subscriptions = s.subscriptions := by rw [windowFrame_frame]
@[simp] theorem windowFrame_mailboxes (n : Link) (b : Bool) : (s.windowFrame n b).mailboxes = s.mailboxes := by rw [windowFrame_frame]
@[simp] theorem windowFrame_txQueues (n : Link) (b : Bool) : (s.windowFrame n b).txQueues = s.txQueues := by rw [windowFrame_frame]
@[simp] theorem windowFrame_messageIds (n : Link) (b : Bool) : (s.windowFrame n b).messageIds = s.messageIds := by rw [windowFrame_frame]
@[simp] theorem windowFrame_ports (n : Link) (b : Bool) : (s.windowFrame n b).ports = s.ports := by rw [windowFrame_frame]
@[simp] theorem windowFrame_events (n : Link) (b : Bool) : (s.windowFrame n b).events = s.events := by rw [windowFrame_frame]
@[simp] theorem windowFrame_chmNotices (n : Link) (b : Bool) : (s.windowFrame n b).chmNotices = s.chmNotices := by rw [windowFrame_frame]
@[simp] theorem windowFrame_rslNotices (n : Link) (b : Bool) : (s.windowFrame n b).rslNotices = s.rslNotices := by rw [windowFrame_frame]
@[simp] theorem windowFrame_msuNotices (n : Link) (b : Bool) : (s.windowFrame n b).msuNotices = s.msuNotices := by rw [windowFrame_frame]
@[simp] theorem windowFrame_evuNotices (n : Link) (b : Bool) : (s.windowFrame n b).evuNotices = s.evuNotices := by rw [windowFrame_frame]
@[simp] theorem windowFrame_txNotices (n : Link) (b : Bool) : (s.windowFrame n b).txNotices = s.txNotices := by rw [windowFrame_frame]
@[simp] theorem windowFrame_resetToReach (n : Link) (b : Bool) : (s.windowFrame n b).resetToReach = s.resetToReach := by rw [windowFrame_frame]
@[simp] theorem windowFrame_pending (n : Link) (b : Bool) : (s.windowFrame n b).pending = s.pending := by rw [windowFrame_frame]

theorem takeGoodFrame_frame (n : Link) (f : LinkFrame) :
    s.takeGoodFrame n f = { s with receivers := (s.takeGoodFrame n f).receivers, stores := (s.takeGoodFrame n f).stores, assemblers := (s.takeGoodFrame n f).assemblers, mailboxes := (s.takeGoodFrame n f).mailboxes, raised := (s.takeGoodFrame n f).raised } := by
  unfold takeGoodFrame; rw [appendFrame_frame, sideItem_frame, windowFrame_frame]; rfl

@[simp] theorem takeGoodFrame_now (n : Link) (f : LinkFrame) : (s.takeGoodFrame n f).now = s.now := by rw [takeGoodFrame_frame]
@[simp] theorem takeGoodFrame_transmitters (n : Link) (f : LinkFrame) : (s.takeGoodFrame n f).transmitters = s.transmitters := by rw [takeGoodFrame_frame]
@[simp] theorem takeGoodFrame_timing (n : Link) (f : LinkFrame) : (s.takeGoodFrame n f).timing = s.timing := by rw [takeGoodFrame_frame]
@[simp] theorem takeGoodFrame_selector (n : Link) (f : LinkFrame) : (s.takeGoodFrame n f).selector = s.selector := by rw [takeGoodFrame_frame]
@[simp] theorem takeGoodFrame_activeMap (n : Link) (f : LinkFrame) : (s.takeGoodFrame n f).activeMap = s.activeMap := by rw [takeGoodFrame_frame]
@[simp] theorem takeGoodFrame_sessions (n : Link) (f : LinkFrame) : (s.takeGoodFrame n f).sessions = s.sessions := by rw [takeGoodFrame_frame]
@[simp] theorem takeGoodFrame_everyone (n : Link) (f : LinkFrame) : (s.takeGoodFrame n f).everyone = s.everyone := everyone_congr (takeGoodFrame_sessions s n f)
@[simp] theorem takeGoodFrame_claims (n : Link) (f : LinkFrame) : (s.takeGoodFrame n f).claims = s.claims := by rw [takeGoodFrame_frame]
@[simp] theorem takeGoodFrame_staging (n : Link) (f : LinkFrame) : (s.takeGoodFrame n f).staging = s.staging := by rw [takeGoodFrame_frame]
@[simp] theorem takeGoodFrame_commitQueue (n : Link) (f : LinkFrame) : (s.takeGoodFrame n f).commitQueue = s.commitQueue := by rw [takeGoodFrame_frame]
@[simp] theorem takeGoodFrame_commitSeq (n : Link) (f : LinkFrame) : (s.takeGoodFrame n f).commitSeq = s.commitSeq := by rw [takeGoodFrame_frame]
@[simp] theorem takeGoodFrame_subscriptions (n : Link) (f : LinkFrame) : (s.takeGoodFrame n f).subscriptions = s.subscriptions := by rw [takeGoodFrame_frame]
@[simp] theorem takeGoodFrame_txQueues (n : Link) (f : LinkFrame) : (s.takeGoodFrame n f).txQueues = s.txQueues := by rw [takeGoodFrame_frame]
@[simp] theorem takeGoodFrame_messageIds (n : Link) (f : LinkFrame) : (s.takeGoodFrame n f).messageIds = s.messageIds := by rw [takeGoodFrame_frame]
@[simp] theorem takeGoodFrame_ports (n : Link) (f : LinkFrame) : (s.takeGoodFrame n f).ports = s.ports := by rw [takeGoodFrame_frame]
@[simp] theorem takeGoodFrame_events (n : Link) (f : LinkFrame) : (s.takeGoodFrame n f).events = s.events := by rw [takeGoodFrame_frame]
@[simp] theorem takeGoodFrame_chmNotices (n : Link) (f : LinkFrame) : (s.takeGoodFrame n f).chmNotices = s.chmNotices := by rw [takeGoodFrame_frame]
@[simp] theorem takeGoodFrame_rslNotices (n : Link) (f : LinkFrame) : (s.takeGoodFrame n f).rslNotices = s.rslNotices := by rw [takeGoodFrame_frame]
@[simp] theorem takeGoodFrame_msuNotices (n : Link) (f : LinkFrame) : (s.takeGoodFrame n f).msuNotices = s.msuNotices := by rw [takeGoodFrame_frame]
@[simp] theorem takeGoodFrame_evuNotices (n : Link) (f : LinkFrame) : (s.takeGoodFrame n f).evuNotices = s.evuNotices := by rw [takeGoodFrame_frame]
@[simp] theorem takeGoodFrame_txNotices (n : Link) (f : LinkFrame) : (s.takeGoodFrame n f).txNotices = s.txNotices := by rw [takeGoodFrame_frame]
@[simp] theorem takeGoodFrame_resetToReach (n : Link) (f : LinkFrame) : (s.takeGoodFrame n f).resetToReach = s.resetToReach := by rw [takeGoodFrame_frame]
@[simp] theorem takeGoodFrame_pending (n : Link) (f : LinkFrame) : (s.takeGoodFrame n f).pending = s.pending := by rw [takeGoodFrame_frame]

theorem takeConcealed_frame (n : Link) (f : Receiver → Receiver) :
    s.takeConcealed n f = { s with receivers := (s.takeConcealed n f).receivers, stores := (s.takeConcealed n f).stores, assemblers := (s.takeConcealed n f).assemblers, mailboxes := (s.takeConcealed n f).mailboxes, raised := (s.takeConcealed n f).raised } := by
  unfold takeConcealed; rw [appendFrame_frame, sideItem_frame, windowFrame_frame]; rfl

@[simp] theorem takeConcealed_now (n : Link) (f : Receiver → Receiver) : (s.takeConcealed n f).now = s.now := by rw [takeConcealed_frame]
@[simp] theorem takeConcealed_transmitters (n : Link) (f : Receiver → Receiver) : (s.takeConcealed n f).transmitters = s.transmitters := by rw [takeConcealed_frame]
@[simp] theorem takeConcealed_timing (n : Link) (f : Receiver → Receiver) : (s.takeConcealed n f).timing = s.timing := by rw [takeConcealed_frame]
@[simp] theorem takeConcealed_selector (n : Link) (f : Receiver → Receiver) : (s.takeConcealed n f).selector = s.selector := by rw [takeConcealed_frame]
@[simp] theorem takeConcealed_activeMap (n : Link) (f : Receiver → Receiver) : (s.takeConcealed n f).activeMap = s.activeMap := by rw [takeConcealed_frame]
@[simp] theorem takeConcealed_sessions (n : Link) (f : Receiver → Receiver) : (s.takeConcealed n f).sessions = s.sessions := by rw [takeConcealed_frame]
@[simp] theorem takeConcealed_everyone (n : Link) (f : Receiver → Receiver) : (s.takeConcealed n f).everyone = s.everyone := everyone_congr (takeConcealed_sessions s n f)
@[simp] theorem takeConcealed_claims (n : Link) (f : Receiver → Receiver) : (s.takeConcealed n f).claims = s.claims := by rw [takeConcealed_frame]
@[simp] theorem takeConcealed_staging (n : Link) (f : Receiver → Receiver) : (s.takeConcealed n f).staging = s.staging := by rw [takeConcealed_frame]
@[simp] theorem takeConcealed_commitQueue (n : Link) (f : Receiver → Receiver) : (s.takeConcealed n f).commitQueue = s.commitQueue := by rw [takeConcealed_frame]
@[simp] theorem takeConcealed_commitSeq (n : Link) (f : Receiver → Receiver) : (s.takeConcealed n f).commitSeq = s.commitSeq := by rw [takeConcealed_frame]
@[simp] theorem takeConcealed_subscriptions (n : Link) (f : Receiver → Receiver) : (s.takeConcealed n f).subscriptions = s.subscriptions := by rw [takeConcealed_frame]
@[simp] theorem takeConcealed_txQueues (n : Link) (f : Receiver → Receiver) : (s.takeConcealed n f).txQueues = s.txQueues := by rw [takeConcealed_frame]
@[simp] theorem takeConcealed_messageIds (n : Link) (f : Receiver → Receiver) : (s.takeConcealed n f).messageIds = s.messageIds := by rw [takeConcealed_frame]
@[simp] theorem takeConcealed_ports (n : Link) (f : Receiver → Receiver) : (s.takeConcealed n f).ports = s.ports := by rw [takeConcealed_frame]
@[simp] theorem takeConcealed_events (n : Link) (f : Receiver → Receiver) : (s.takeConcealed n f).events = s.events := by rw [takeConcealed_frame]
@[simp] theorem takeConcealed_chmNotices (n : Link) (f : Receiver → Receiver) : (s.takeConcealed n f).chmNotices = s.chmNotices := by rw [takeConcealed_frame]
@[simp] theorem takeConcealed_rslNotices (n : Link) (f : Receiver → Receiver) : (s.takeConcealed n f).rslNotices = s.rslNotices := by rw [takeConcealed_frame]
@[simp] theorem takeConcealed_msuNotices (n : Link) (f : Receiver → Receiver) : (s.takeConcealed n f).msuNotices = s.msuNotices := by rw [takeConcealed_frame]
@[simp] theorem takeConcealed_evuNotices (n : Link) (f : Receiver → Receiver) : (s.takeConcealed n f).evuNotices = s.evuNotices := by rw [takeConcealed_frame]
@[simp] theorem takeConcealed_txNotices (n : Link) (f : Receiver → Receiver) : (s.takeConcealed n f).txNotices = s.txNotices := by rw [takeConcealed_frame]
@[simp] theorem takeConcealed_resetToReach (n : Link) (f : Receiver → Receiver) : (s.takeConcealed n f).resetToReach = s.resetToReach := by rw [takeConcealed_frame]
@[simp] theorem takeConcealed_pending (n : Link) (f : Receiver → Receiver) : (s.takeConcealed n f).pending = s.pending := by rw [takeConcealed_frame]

theorem configReceiver_frame (n : Link) (b : Bool) :
    s.configReceiver n b = { s with receivers := (s.configReceiver n b).receivers, stores := (s.configReceiver n b).stores, assemblers := (s.configReceiver n b).assemblers, mailboxes := (s.configReceiver n b).mailboxes, selector := (s.configReceiver n b).selector, raised := (s.configReceiver n b).raised } := by
  unfold configReceiver
  split <;> try rfl
  rw [reportSources_frame, leaveTo_frame]

@[simp] theorem configReceiver_now (n : Link) (b : Bool) : (s.configReceiver n b).now = s.now := by rw [configReceiver_frame]
@[simp] theorem configReceiver_transmitters (n : Link) (b : Bool) : (s.configReceiver n b).transmitters = s.transmitters := by rw [configReceiver_frame]
@[simp] theorem configReceiver_timing (n : Link) (b : Bool) : (s.configReceiver n b).timing = s.timing := by rw [configReceiver_frame]
@[simp] theorem configReceiver_activeMap (n : Link) (b : Bool) : (s.configReceiver n b).activeMap = s.activeMap := by rw [configReceiver_frame]
@[simp] theorem configReceiver_sessions (n : Link) (b : Bool) : (s.configReceiver n b).sessions = s.sessions := by rw [configReceiver_frame]
@[simp] theorem configReceiver_everyone (n : Link) (b : Bool) : (s.configReceiver n b).everyone = s.everyone := everyone_congr (configReceiver_sessions s n b)
@[simp] theorem configReceiver_claims (n : Link) (b : Bool) : (s.configReceiver n b).claims = s.claims := by rw [configReceiver_frame]
@[simp] theorem configReceiver_staging (n : Link) (b : Bool) : (s.configReceiver n b).staging = s.staging := by rw [configReceiver_frame]
@[simp] theorem configReceiver_commitQueue (n : Link) (b : Bool) : (s.configReceiver n b).commitQueue = s.commitQueue := by rw [configReceiver_frame]
@[simp] theorem configReceiver_commitSeq (n : Link) (b : Bool) : (s.configReceiver n b).commitSeq = s.commitSeq := by rw [configReceiver_frame]
@[simp] theorem configReceiver_subscriptions (n : Link) (b : Bool) : (s.configReceiver n b).subscriptions = s.subscriptions := by rw [configReceiver_frame]
@[simp] theorem configReceiver_txQueues (n : Link) (b : Bool) : (s.configReceiver n b).txQueues = s.txQueues := by rw [configReceiver_frame]
@[simp] theorem configReceiver_messageIds (n : Link) (b : Bool) : (s.configReceiver n b).messageIds = s.messageIds := by rw [configReceiver_frame]
@[simp] theorem configReceiver_ports (n : Link) (b : Bool) : (s.configReceiver n b).ports = s.ports := by rw [configReceiver_frame]
@[simp] theorem configReceiver_events (n : Link) (b : Bool) : (s.configReceiver n b).events = s.events := by rw [configReceiver_frame]
@[simp] theorem configReceiver_chmNotices (n : Link) (b : Bool) : (s.configReceiver n b).chmNotices = s.chmNotices := by rw [configReceiver_frame]
@[simp] theorem configReceiver_rslNotices (n : Link) (b : Bool) : (s.configReceiver n b).rslNotices = s.rslNotices := by rw [configReceiver_frame]
@[simp] theorem configReceiver_msuNotices (n : Link) (b : Bool) : (s.configReceiver n b).msuNotices = s.msuNotices := by rw [configReceiver_frame]
@[simp] theorem configReceiver_evuNotices (n : Link) (b : Bool) : (s.configReceiver n b).evuNotices = s.evuNotices := by rw [configReceiver_frame]
@[simp] theorem configReceiver_txNotices (n : Link) (b : Bool) : (s.configReceiver n b).txNotices = s.txNotices := by rw [configReceiver_frame]
@[simp] theorem configReceiver_resetToReach (n : Link) (b : Bool) : (s.configReceiver n b).resetToReach = s.resetToReach := by rw [configReceiver_frame]
@[simp] theorem configReceiver_pending (n : Link) (b : Bool) : (s.configReceiver n b).pending = s.pending := by rw [configReceiver_frame]

theorem configTransmitter_frame (n : Link) (b : Bool) :
    s.configTransmitter n b = { s with transmitters := (s.configTransmitter n b).transmitters, txNotices := (s.configTransmitter n b).txNotices } := by
  unfold configTransmitter; simp only; split <;> rfl

@[simp] theorem configTransmitter_now (n : Link) (b : Bool) : (s.configTransmitter n b).now = s.now := by rw [configTransmitter_frame]
@[simp] theorem configTransmitter_receivers (n : Link) (b : Bool) : (s.configTransmitter n b).receivers = s.receivers := by rw [configTransmitter_frame]
@[simp] theorem configTransmitter_stores (n : Link) (b : Bool) : (s.configTransmitter n b).stores = s.stores := by rw [configTransmitter_frame]
@[simp] theorem configTransmitter_timing (n : Link) (b : Bool) : (s.configTransmitter n b).timing = s.timing := by rw [configTransmitter_frame]
@[simp] theorem configTransmitter_selector (n : Link) (b : Bool) : (s.configTransmitter n b).selector = s.selector := by rw [configTransmitter_frame]
@[simp] theorem configTransmitter_activeMap (n : Link) (b : Bool) : (s.configTransmitter n b).activeMap = s.activeMap := by rw [configTransmitter_frame]
@[simp] theorem configTransmitter_sessions (n : Link) (b : Bool) : (s.configTransmitter n b).sessions = s.sessions := by rw [configTransmitter_frame]
@[simp] theorem configTransmitter_everyone (n : Link) (b : Bool) : (s.configTransmitter n b).everyone = s.everyone := everyone_congr (configTransmitter_sessions s n b)
@[simp] theorem configTransmitter_claims (n : Link) (b : Bool) : (s.configTransmitter n b).claims = s.claims := by rw [configTransmitter_frame]
@[simp] theorem configTransmitter_staging (n : Link) (b : Bool) : (s.configTransmitter n b).staging = s.staging := by rw [configTransmitter_frame]
@[simp] theorem configTransmitter_commitQueue (n : Link) (b : Bool) : (s.configTransmitter n b).commitQueue = s.commitQueue := by rw [configTransmitter_frame]
@[simp] theorem configTransmitter_commitSeq (n : Link) (b : Bool) : (s.configTransmitter n b).commitSeq = s.commitSeq := by rw [configTransmitter_frame]
@[simp] theorem configTransmitter_assemblers (n : Link) (b : Bool) : (s.configTransmitter n b).assemblers = s.assemblers := by rw [configTransmitter_frame]
@[simp] theorem configTransmitter_subscriptions (n : Link) (b : Bool) : (s.configTransmitter n b).subscriptions = s.subscriptions := by rw [configTransmitter_frame]
@[simp] theorem configTransmitter_mailboxes (n : Link) (b : Bool) : (s.configTransmitter n b).mailboxes = s.mailboxes := by rw [configTransmitter_frame]
@[simp] theorem configTransmitter_txQueues (n : Link) (b : Bool) : (s.configTransmitter n b).txQueues = s.txQueues := by rw [configTransmitter_frame]
@[simp] theorem configTransmitter_messageIds (n : Link) (b : Bool) : (s.configTransmitter n b).messageIds = s.messageIds := by rw [configTransmitter_frame]
@[simp] theorem configTransmitter_ports (n : Link) (b : Bool) : (s.configTransmitter n b).ports = s.ports := by rw [configTransmitter_frame]
@[simp] theorem configTransmitter_events (n : Link) (b : Bool) : (s.configTransmitter n b).events = s.events := by rw [configTransmitter_frame]
@[simp] theorem configTransmitter_raised (n : Link) (b : Bool) : (s.configTransmitter n b).raised = s.raised := by rw [configTransmitter_frame]
@[simp] theorem configTransmitter_chmNotices (n : Link) (b : Bool) : (s.configTransmitter n b).chmNotices = s.chmNotices := by rw [configTransmitter_frame]
@[simp] theorem configTransmitter_rslNotices (n : Link) (b : Bool) : (s.configTransmitter n b).rslNotices = s.rslNotices := by rw [configTransmitter_frame]
@[simp] theorem configTransmitter_msuNotices (n : Link) (b : Bool) : (s.configTransmitter n b).msuNotices = s.msuNotices := by rw [configTransmitter_frame]
@[simp] theorem configTransmitter_evuNotices (n : Link) (b : Bool) : (s.configTransmitter n b).evuNotices = s.evuNotices := by rw [configTransmitter_frame]
@[simp] theorem configTransmitter_resetToReach (n : Link) (b : Bool) : (s.configTransmitter n b).resetToReach = s.resetToReach := by rw [configTransmitter_frame]
@[simp] theorem configTransmitter_pending (n : Link) (b : Bool) : (s.configTransmitter n b).pending = s.pending := by rw [configTransmitter_frame]

theorem queueRaised_frame (e : RaisedEvent) :
    s.queueRaised e = { s with ports := (s.queueRaised e).ports, events := (s.queueRaised e).events } :=
  rfl

theorem drainRaised_frame :
    s.drainRaised = { s with ports := (s.drainRaised).ports, events := (s.drainRaised).events, raised := (s.drainRaised).raised } := by
  unfold drainRaised
  have h : ∀ (l : List RaisedEvent) (t : State), l.foldl (fun t ev => t.queueRaised ev) t
      = { t with ports := (l.foldl (fun t ev => t.queueRaised ev) t).ports
                 events := (l.foldl (fun t ev => t.queueRaised ev) t).events } := by
    intro l
    induction l with
    | nil => intro t; rfl
    | cons e l ih => intro t; rw [List.foldl_cons, ih]; rfl
  rw [h]

@[simp] theorem drainRaised_now : (s.drainRaised).now = s.now := by rw [drainRaised_frame]
@[simp] theorem drainRaised_receivers : (s.drainRaised).receivers = s.receivers := by rw [drainRaised_frame]
@[simp] theorem drainRaised_stores : (s.drainRaised).stores = s.stores := by rw [drainRaised_frame]
@[simp] theorem drainRaised_transmitters : (s.drainRaised).transmitters = s.transmitters := by rw [drainRaised_frame]
@[simp] theorem drainRaised_timing : (s.drainRaised).timing = s.timing := by rw [drainRaised_frame]
@[simp] theorem drainRaised_selector : (s.drainRaised).selector = s.selector := by rw [drainRaised_frame]
@[simp] theorem drainRaised_activeMap : (s.drainRaised).activeMap = s.activeMap := by rw [drainRaised_frame]
@[simp] theorem drainRaised_sessions : (s.drainRaised).sessions = s.sessions := by rw [drainRaised_frame]
@[simp] theorem drainRaised_everyone : (s.drainRaised).everyone = s.everyone := everyone_congr (drainRaised_sessions s)
@[simp] theorem drainRaised_claims : (s.drainRaised).claims = s.claims := by rw [drainRaised_frame]
@[simp] theorem drainRaised_staging : (s.drainRaised).staging = s.staging := by rw [drainRaised_frame]
@[simp] theorem drainRaised_commitQueue : (s.drainRaised).commitQueue = s.commitQueue := by rw [drainRaised_frame]
@[simp] theorem drainRaised_commitSeq : (s.drainRaised).commitSeq = s.commitSeq := by rw [drainRaised_frame]
@[simp] theorem drainRaised_assemblers : (s.drainRaised).assemblers = s.assemblers := by rw [drainRaised_frame]
@[simp] theorem drainRaised_subscriptions : (s.drainRaised).subscriptions = s.subscriptions := by rw [drainRaised_frame]
@[simp] theorem drainRaised_mailboxes : (s.drainRaised).mailboxes = s.mailboxes := by rw [drainRaised_frame]
@[simp] theorem drainRaised_txQueues : (s.drainRaised).txQueues = s.txQueues := by rw [drainRaised_frame]
@[simp] theorem drainRaised_messageIds : (s.drainRaised).messageIds = s.messageIds := by rw [drainRaised_frame]
@[simp] theorem drainRaised_chmNotices : (s.drainRaised).chmNotices = s.chmNotices := by rw [drainRaised_frame]
@[simp] theorem drainRaised_rslNotices : (s.drainRaised).rslNotices = s.rslNotices := by rw [drainRaised_frame]
@[simp] theorem drainRaised_msuNotices : (s.drainRaised).msuNotices = s.msuNotices := by rw [drainRaised_frame]
@[simp] theorem drainRaised_evuNotices : (s.drainRaised).evuNotices = s.evuNotices := by rw [drainRaised_frame]
@[simp] theorem drainRaised_txNotices : (s.drainRaised).txNotices = s.txNotices := by rw [drainRaised_frame]
@[simp] theorem drainRaised_resetToReach : (s.drainRaised).resetToReach = s.resetToReach := by rw [drainRaised_frame]
@[simp] theorem drainRaised_pending : (s.drainRaised).pending = s.pending := by rw [drainRaised_frame]

theorem settle_frame (p : Port) (x : Transaction) (k : Nat) :
    s.settle p x k = { s with ports := (s.settle p x k).ports, events := (s.settle p x k).events } := by
  unfold settle; split
  · split
    · rfl
    · rfl
    · split <;> rfl
  · rfl

@[simp] theorem settle_now (p : Port) (x : Transaction) (k : Nat) : (s.settle p x k).now = s.now := by rw [settle_frame]
@[simp] theorem settle_receivers (p : Port) (x : Transaction) (k : Nat) : (s.settle p x k).receivers = s.receivers := by rw [settle_frame]
@[simp] theorem settle_stores (p : Port) (x : Transaction) (k : Nat) : (s.settle p x k).stores = s.stores := by rw [settle_frame]
@[simp] theorem settle_transmitters (p : Port) (x : Transaction) (k : Nat) : (s.settle p x k).transmitters = s.transmitters := by rw [settle_frame]
@[simp] theorem settle_timing (p : Port) (x : Transaction) (k : Nat) : (s.settle p x k).timing = s.timing := by rw [settle_frame]
@[simp] theorem settle_selector (p : Port) (x : Transaction) (k : Nat) : (s.settle p x k).selector = s.selector := by rw [settle_frame]
@[simp] theorem settle_activeMap (p : Port) (x : Transaction) (k : Nat) : (s.settle p x k).activeMap = s.activeMap := by rw [settle_frame]
@[simp] theorem settle_sessions (p : Port) (x : Transaction) (k : Nat) : (s.settle p x k).sessions = s.sessions := by rw [settle_frame]
@[simp] theorem settle_everyone (p : Port) (x : Transaction) (k : Nat) : (s.settle p x k).everyone = s.everyone := everyone_congr (settle_sessions s p x k)
@[simp] theorem settle_claims (p : Port) (x : Transaction) (k : Nat) : (s.settle p x k).claims = s.claims := by rw [settle_frame]
@[simp] theorem settle_staging (p : Port) (x : Transaction) (k : Nat) : (s.settle p x k).staging = s.staging := by rw [settle_frame]
@[simp] theorem settle_commitQueue (p : Port) (x : Transaction) (k : Nat) : (s.settle p x k).commitQueue = s.commitQueue := by rw [settle_frame]
@[simp] theorem settle_commitSeq (p : Port) (x : Transaction) (k : Nat) : (s.settle p x k).commitSeq = s.commitSeq := by rw [settle_frame]
@[simp] theorem settle_assemblers (p : Port) (x : Transaction) (k : Nat) : (s.settle p x k).assemblers = s.assemblers := by rw [settle_frame]
@[simp] theorem settle_subscriptions (p : Port) (x : Transaction) (k : Nat) : (s.settle p x k).subscriptions = s.subscriptions := by rw [settle_frame]
@[simp] theorem settle_mailboxes (p : Port) (x : Transaction) (k : Nat) : (s.settle p x k).mailboxes = s.mailboxes := by rw [settle_frame]
@[simp] theorem settle_txQueues (p : Port) (x : Transaction) (k : Nat) : (s.settle p x k).txQueues = s.txQueues := by rw [settle_frame]
@[simp] theorem settle_messageIds (p : Port) (x : Transaction) (k : Nat) : (s.settle p x k).messageIds = s.messageIds := by rw [settle_frame]
@[simp] theorem settle_raised (p : Port) (x : Transaction) (k : Nat) : (s.settle p x k).raised = s.raised := by rw [settle_frame]
@[simp] theorem settle_chmNotices (p : Port) (x : Transaction) (k : Nat) : (s.settle p x k).chmNotices = s.chmNotices := by rw [settle_frame]
@[simp] theorem settle_rslNotices (p : Port) (x : Transaction) (k : Nat) : (s.settle p x k).rslNotices = s.rslNotices := by rw [settle_frame]
@[simp] theorem settle_msuNotices (p : Port) (x : Transaction) (k : Nat) : (s.settle p x k).msuNotices = s.msuNotices := by rw [settle_frame]
@[simp] theorem settle_evuNotices (p : Port) (x : Transaction) (k : Nat) : (s.settle p x k).evuNotices = s.evuNotices := by rw [settle_frame]
@[simp] theorem settle_txNotices (p : Port) (x : Transaction) (k : Nat) : (s.settle p x k).txNotices = s.txNotices := by rw [settle_frame]
@[simp] theorem settle_resetToReach (p : Port) (x : Transaction) (k : Nat) : (s.settle p x k).resetToReach = s.resetToReach := by rw [settle_frame]
@[simp] theorem settle_pending (p : Port) (x : Transaction) (k : Nat) : (s.settle p x k).pending = s.pending := by rw [settle_frame]

theorem clearGroup_frame (g : CounterGroup) :
    s.clearGroup g = { s with receivers := (s.clearGroup g).receivers, stores := (s.clearGroup g).stores, assemblers := (s.clearGroup g).assemblers, mailboxes := (s.clearGroup g).mailboxes, ports := (s.clearGroup g).ports } := by
  unfold clearGroup; split <;> rfl

@[simp] theorem clearGroup_now (g : CounterGroup) : (s.clearGroup g).now = s.now := by rw [clearGroup_frame]
@[simp] theorem clearGroup_transmitters (g : CounterGroup) : (s.clearGroup g).transmitters = s.transmitters := by rw [clearGroup_frame]
@[simp] theorem clearGroup_timing (g : CounterGroup) : (s.clearGroup g).timing = s.timing := by rw [clearGroup_frame]
@[simp] theorem clearGroup_selector (g : CounterGroup) : (s.clearGroup g).selector = s.selector := by rw [clearGroup_frame]
@[simp] theorem clearGroup_activeMap (g : CounterGroup) : (s.clearGroup g).activeMap = s.activeMap := by rw [clearGroup_frame]
@[simp] theorem clearGroup_sessions (g : CounterGroup) : (s.clearGroup g).sessions = s.sessions := by rw [clearGroup_frame]
@[simp] theorem clearGroup_everyone (g : CounterGroup) : (s.clearGroup g).everyone = s.everyone := everyone_congr (clearGroup_sessions s g)
@[simp] theorem clearGroup_claims (g : CounterGroup) : (s.clearGroup g).claims = s.claims := by rw [clearGroup_frame]
@[simp] theorem clearGroup_staging (g : CounterGroup) : (s.clearGroup g).staging = s.staging := by rw [clearGroup_frame]
@[simp] theorem clearGroup_commitQueue (g : CounterGroup) : (s.clearGroup g).commitQueue = s.commitQueue := by rw [clearGroup_frame]
@[simp] theorem clearGroup_commitSeq (g : CounterGroup) : (s.clearGroup g).commitSeq = s.commitSeq := by rw [clearGroup_frame]
@[simp] theorem clearGroup_subscriptions (g : CounterGroup) : (s.clearGroup g).subscriptions = s.subscriptions := by rw [clearGroup_frame]
@[simp] theorem clearGroup_txQueues (g : CounterGroup) : (s.clearGroup g).txQueues = s.txQueues := by rw [clearGroup_frame]
@[simp] theorem clearGroup_messageIds (g : CounterGroup) : (s.clearGroup g).messageIds = s.messageIds := by rw [clearGroup_frame]
@[simp] theorem clearGroup_events (g : CounterGroup) : (s.clearGroup g).events = s.events := by rw [clearGroup_frame]
@[simp] theorem clearGroup_raised (g : CounterGroup) : (s.clearGroup g).raised = s.raised := by rw [clearGroup_frame]
@[simp] theorem clearGroup_chmNotices (g : CounterGroup) : (s.clearGroup g).chmNotices = s.chmNotices := by rw [clearGroup_frame]
@[simp] theorem clearGroup_rslNotices (g : CounterGroup) : (s.clearGroup g).rslNotices = s.rslNotices := by rw [clearGroup_frame]
@[simp] theorem clearGroup_msuNotices (g : CounterGroup) : (s.clearGroup g).msuNotices = s.msuNotices := by rw [clearGroup_frame]
@[simp] theorem clearGroup_evuNotices (g : CounterGroup) : (s.clearGroup g).evuNotices = s.evuNotices := by rw [clearGroup_frame]
@[simp] theorem clearGroup_txNotices (g : CounterGroup) : (s.clearGroup g).txNotices = s.txNotices := by rw [clearGroup_frame]
@[simp] theorem clearGroup_resetToReach (g : CounterGroup) : (s.clearGroup g).resetToReach = s.resetToReach := by rw [clearGroup_frame]
@[simp] theorem clearGroup_pending (g : CounterGroup) : (s.clearGroup g).pending = s.pending := by rw [clearGroup_frame]

theorem renewLease_frame (p : Port) :
    s.renewLease p = { s with sessions := (s.renewLease p).sessions } := by
  unfold renewLease; split <;> rfl

@[simp] theorem renewLease_now (p : Port) : (s.renewLease p).now = s.now := by rw [renewLease_frame]
@[simp] theorem renewLease_receivers (p : Port) : (s.renewLease p).receivers = s.receivers := by rw [renewLease_frame]
@[simp] theorem renewLease_stores (p : Port) : (s.renewLease p).stores = s.stores := by rw [renewLease_frame]
@[simp] theorem renewLease_transmitters (p : Port) : (s.renewLease p).transmitters = s.transmitters := by rw [renewLease_frame]
@[simp] theorem renewLease_timing (p : Port) : (s.renewLease p).timing = s.timing := by rw [renewLease_frame]
@[simp] theorem renewLease_selector (p : Port) : (s.renewLease p).selector = s.selector := by rw [renewLease_frame]
@[simp] theorem renewLease_activeMap (p : Port) : (s.renewLease p).activeMap = s.activeMap := by rw [renewLease_frame]
@[simp] theorem renewLease_claims (p : Port) : (s.renewLease p).claims = s.claims := by rw [renewLease_frame]
@[simp] theorem renewLease_staging (p : Port) : (s.renewLease p).staging = s.staging := by rw [renewLease_frame]
@[simp] theorem renewLease_commitQueue (p : Port) : (s.renewLease p).commitQueue = s.commitQueue := by rw [renewLease_frame]
@[simp] theorem renewLease_commitSeq (p : Port) : (s.renewLease p).commitSeq = s.commitSeq := by rw [renewLease_frame]
@[simp] theorem renewLease_assemblers (p : Port) : (s.renewLease p).assemblers = s.assemblers := by rw [renewLease_frame]
@[simp] theorem renewLease_subscriptions (p : Port) : (s.renewLease p).subscriptions = s.subscriptions := by rw [renewLease_frame]
@[simp] theorem renewLease_mailboxes (p : Port) : (s.renewLease p).mailboxes = s.mailboxes := by rw [renewLease_frame]
@[simp] theorem renewLease_txQueues (p : Port) : (s.renewLease p).txQueues = s.txQueues := by rw [renewLease_frame]
@[simp] theorem renewLease_messageIds (p : Port) : (s.renewLease p).messageIds = s.messageIds := by rw [renewLease_frame]
@[simp] theorem renewLease_ports (p : Port) : (s.renewLease p).ports = s.ports := by rw [renewLease_frame]
@[simp] theorem renewLease_events (p : Port) : (s.renewLease p).events = s.events := by rw [renewLease_frame]
@[simp] theorem renewLease_raised (p : Port) : (s.renewLease p).raised = s.raised := by rw [renewLease_frame]
@[simp] theorem renewLease_chmNotices (p : Port) : (s.renewLease p).chmNotices = s.chmNotices := by rw [renewLease_frame]
@[simp] theorem renewLease_rslNotices (p : Port) : (s.renewLease p).rslNotices = s.rslNotices := by rw [renewLease_frame]
@[simp] theorem renewLease_msuNotices (p : Port) : (s.renewLease p).msuNotices = s.msuNotices := by rw [renewLease_frame]
@[simp] theorem renewLease_evuNotices (p : Port) : (s.renewLease p).evuNotices = s.evuNotices := by rw [renewLease_frame]
@[simp] theorem renewLease_txNotices (p : Port) : (s.renewLease p).txNotices = s.txNotices := by rw [renewLease_frame]
@[simp] theorem renewLease_resetToReach (p : Port) : (s.renewLease p).resetToReach = s.resetToReach := by rw [renewLease_frame]
@[simp] theorem renewLease_pending (p : Port) : (s.renewLease p).pending = s.pending := by rw [renewLease_frame]

theorem beginFrame_frame :
    s.beginFrame = { s with now := (s.beginFrame).now, timing := (s.beginFrame).timing } :=
  rfl

@[simp] theorem beginFrame_receivers : (s.beginFrame).receivers = s.receivers := by rw [beginFrame_frame]
@[simp] theorem beginFrame_stores : (s.beginFrame).stores = s.stores := by rw [beginFrame_frame]
@[simp] theorem beginFrame_transmitters : (s.beginFrame).transmitters = s.transmitters := by rw [beginFrame_frame]
@[simp] theorem beginFrame_selector : (s.beginFrame).selector = s.selector := by rw [beginFrame_frame]
@[simp] theorem beginFrame_activeMap : (s.beginFrame).activeMap = s.activeMap := by rw [beginFrame_frame]
@[simp] theorem beginFrame_sessions : (s.beginFrame).sessions = s.sessions := by rw [beginFrame_frame]
@[simp] theorem beginFrame_everyone : (s.beginFrame).everyone = s.everyone := everyone_congr (beginFrame_sessions s)
@[simp] theorem beginFrame_claims : (s.beginFrame).claims = s.claims := by rw [beginFrame_frame]
@[simp] theorem beginFrame_staging : (s.beginFrame).staging = s.staging := by rw [beginFrame_frame]
@[simp] theorem beginFrame_commitQueue : (s.beginFrame).commitQueue = s.commitQueue := by rw [beginFrame_frame]
@[simp] theorem beginFrame_commitSeq : (s.beginFrame).commitSeq = s.commitSeq := by rw [beginFrame_frame]
@[simp] theorem beginFrame_assemblers : (s.beginFrame).assemblers = s.assemblers := by rw [beginFrame_frame]
@[simp] theorem beginFrame_subscriptions : (s.beginFrame).subscriptions = s.subscriptions := by rw [beginFrame_frame]
@[simp] theorem beginFrame_mailboxes : (s.beginFrame).mailboxes = s.mailboxes := by rw [beginFrame_frame]
@[simp] theorem beginFrame_txQueues : (s.beginFrame).txQueues = s.txQueues := by rw [beginFrame_frame]
@[simp] theorem beginFrame_messageIds : (s.beginFrame).messageIds = s.messageIds := by rw [beginFrame_frame]
@[simp] theorem beginFrame_ports : (s.beginFrame).ports = s.ports := by rw [beginFrame_frame]
@[simp] theorem beginFrame_events : (s.beginFrame).events = s.events := by rw [beginFrame_frame]
@[simp] theorem beginFrame_raised : (s.beginFrame).raised = s.raised := by rw [beginFrame_frame]
@[simp] theorem beginFrame_chmNotices : (s.beginFrame).chmNotices = s.chmNotices := by rw [beginFrame_frame]
@[simp] theorem beginFrame_rslNotices : (s.beginFrame).rslNotices = s.rslNotices := by rw [beginFrame_frame]
@[simp] theorem beginFrame_msuNotices : (s.beginFrame).msuNotices = s.msuNotices := by rw [beginFrame_frame]
@[simp] theorem beginFrame_evuNotices : (s.beginFrame).evuNotices = s.evuNotices := by rw [beginFrame_frame]
@[simp] theorem beginFrame_txNotices : (s.beginFrame).txNotices = s.txNotices := by rw [beginFrame_frame]
@[simp] theorem beginFrame_resetToReach : (s.beginFrame).resetToReach = s.resetToReach := by rw [beginFrame_frame]
@[simp] theorem beginFrame_pending : (s.beginFrame).pending = s.pending := by rw [beginFrame_frame]

theorem fixFrame_frame :
    s.fixFrame = { s with timing := (s.fixFrame).timing } :=
  rfl

@[simp] theorem fixFrame_now : (s.fixFrame).now = s.now := by rw [fixFrame_frame]
@[simp] theorem fixFrame_receivers : (s.fixFrame).receivers = s.receivers := by rw [fixFrame_frame]
@[simp] theorem fixFrame_stores : (s.fixFrame).stores = s.stores := by rw [fixFrame_frame]
@[simp] theorem fixFrame_transmitters : (s.fixFrame).transmitters = s.transmitters := by rw [fixFrame_frame]
@[simp] theorem fixFrame_selector : (s.fixFrame).selector = s.selector := by rw [fixFrame_frame]
@[simp] theorem fixFrame_activeMap : (s.fixFrame).activeMap = s.activeMap := by rw [fixFrame_frame]
@[simp] theorem fixFrame_sessions : (s.fixFrame).sessions = s.sessions := by rw [fixFrame_frame]
@[simp] theorem fixFrame_everyone : (s.fixFrame).everyone = s.everyone := everyone_congr (fixFrame_sessions s)
@[simp] theorem fixFrame_claims : (s.fixFrame).claims = s.claims := by rw [fixFrame_frame]
@[simp] theorem fixFrame_staging : (s.fixFrame).staging = s.staging := by rw [fixFrame_frame]
@[simp] theorem fixFrame_commitQueue : (s.fixFrame).commitQueue = s.commitQueue := by rw [fixFrame_frame]
@[simp] theorem fixFrame_commitSeq : (s.fixFrame).commitSeq = s.commitSeq := by rw [fixFrame_frame]
@[simp] theorem fixFrame_assemblers : (s.fixFrame).assemblers = s.assemblers := by rw [fixFrame_frame]
@[simp] theorem fixFrame_subscriptions : (s.fixFrame).subscriptions = s.subscriptions := by rw [fixFrame_frame]
@[simp] theorem fixFrame_mailboxes : (s.fixFrame).mailboxes = s.mailboxes := by rw [fixFrame_frame]
@[simp] theorem fixFrame_txQueues : (s.fixFrame).txQueues = s.txQueues := by rw [fixFrame_frame]
@[simp] theorem fixFrame_messageIds : (s.fixFrame).messageIds = s.messageIds := by rw [fixFrame_frame]
@[simp] theorem fixFrame_ports : (s.fixFrame).ports = s.ports := by rw [fixFrame_frame]
@[simp] theorem fixFrame_events : (s.fixFrame).events = s.events := by rw [fixFrame_frame]
@[simp] theorem fixFrame_raised : (s.fixFrame).raised = s.raised := by rw [fixFrame_frame]
@[simp] theorem fixFrame_chmNotices : (s.fixFrame).chmNotices = s.chmNotices := by rw [fixFrame_frame]
@[simp] theorem fixFrame_rslNotices : (s.fixFrame).rslNotices = s.rslNotices := by rw [fixFrame_frame]
@[simp] theorem fixFrame_msuNotices : (s.fixFrame).msuNotices = s.msuNotices := by rw [fixFrame_frame]
@[simp] theorem fixFrame_evuNotices : (s.fixFrame).evuNotices = s.evuNotices := by rw [fixFrame_frame]
@[simp] theorem fixFrame_txNotices : (s.fixFrame).txNotices = s.txNotices := by rw [fixFrame_frame]
@[simp] theorem fixFrame_resetToReach : (s.fixFrame).resetToReach = s.resetToReach := by rw [fixFrame_frame]
@[simp] theorem fixFrame_pending : (s.fixFrame).pending = s.pending := by rw [fixFrame_frame]

theorem readStores_frame :
    s.readStores = { s with stores := (s.readStores).stores, raised := (s.readStores).raised } :=
  rfl

@[simp] theorem readStores_now : (s.readStores).now = s.now := by rw [readStores_frame]
@[simp] theorem readStores_receivers : (s.readStores).receivers = s.receivers := by rw [readStores_frame]
@[simp] theorem readStores_transmitters : (s.readStores).transmitters = s.transmitters := by rw [readStores_frame]
@[simp] theorem readStores_timing : (s.readStores).timing = s.timing := by rw [readStores_frame]
@[simp] theorem readStores_selector : (s.readStores).selector = s.selector := by rw [readStores_frame]
@[simp] theorem readStores_activeMap : (s.readStores).activeMap = s.activeMap := by rw [readStores_frame]
@[simp] theorem readStores_sessions : (s.readStores).sessions = s.sessions := by rw [readStores_frame]
@[simp] theorem readStores_everyone : (s.readStores).everyone = s.everyone := everyone_congr (readStores_sessions s)
@[simp] theorem readStores_claims : (s.readStores).claims = s.claims := by rw [readStores_frame]
@[simp] theorem readStores_staging : (s.readStores).staging = s.staging := by rw [readStores_frame]
@[simp] theorem readStores_commitQueue : (s.readStores).commitQueue = s.commitQueue := by rw [readStores_frame]
@[simp] theorem readStores_commitSeq : (s.readStores).commitSeq = s.commitSeq := by rw [readStores_frame]
@[simp] theorem readStores_assemblers : (s.readStores).assemblers = s.assemblers := by rw [readStores_frame]
@[simp] theorem readStores_subscriptions : (s.readStores).subscriptions = s.subscriptions := by rw [readStores_frame]
@[simp] theorem readStores_mailboxes : (s.readStores).mailboxes = s.mailboxes := by rw [readStores_frame]
@[simp] theorem readStores_txQueues : (s.readStores).txQueues = s.txQueues := by rw [readStores_frame]
@[simp] theorem readStores_messageIds : (s.readStores).messageIds = s.messageIds := by rw [readStores_frame]
@[simp] theorem readStores_ports : (s.readStores).ports = s.ports := by rw [readStores_frame]
@[simp] theorem readStores_events : (s.readStores).events = s.events := by rw [readStores_frame]
@[simp] theorem readStores_chmNotices : (s.readStores).chmNotices = s.chmNotices := by rw [readStores_frame]
@[simp] theorem readStores_rslNotices : (s.readStores).rslNotices = s.rslNotices := by rw [readStores_frame]
@[simp] theorem readStores_msuNotices : (s.readStores).msuNotices = s.msuNotices := by rw [readStores_frame]
@[simp] theorem readStores_evuNotices : (s.readStores).evuNotices = s.evuNotices := by rw [readStores_frame]
@[simp] theorem readStores_txNotices : (s.readStores).txNotices = s.txNotices := by rw [readStores_frame]
@[simp] theorem readStores_resetToReach : (s.readStores).resetToReach = s.resetToReach := by rw [readStores_frame]
@[simp] theorem readStores_pending : (s.readStores).pending = s.pending := by rw [readStores_frame]

theorem computeMap_frame :
    s.computeMap = { s with activeMap := (s.computeMap).activeMap } :=
  rfl

@[simp] theorem computeMap_now : (s.computeMap).now = s.now := by rw [computeMap_frame]
@[simp] theorem computeMap_receivers : (s.computeMap).receivers = s.receivers := by rw [computeMap_frame]
@[simp] theorem computeMap_stores : (s.computeMap).stores = s.stores := by rw [computeMap_frame]
@[simp] theorem computeMap_transmitters : (s.computeMap).transmitters = s.transmitters := by rw [computeMap_frame]
@[simp] theorem computeMap_timing : (s.computeMap).timing = s.timing := by rw [computeMap_frame]
@[simp] theorem computeMap_selector : (s.computeMap).selector = s.selector := by rw [computeMap_frame]
@[simp] theorem computeMap_sessions : (s.computeMap).sessions = s.sessions := by rw [computeMap_frame]
@[simp] theorem computeMap_everyone : (s.computeMap).everyone = s.everyone := everyone_congr (computeMap_sessions s)
@[simp] theorem computeMap_claims : (s.computeMap).claims = s.claims := by rw [computeMap_frame]
@[simp] theorem computeMap_staging : (s.computeMap).staging = s.staging := by rw [computeMap_frame]
@[simp] theorem computeMap_commitQueue : (s.computeMap).commitQueue = s.commitQueue := by rw [computeMap_frame]
@[simp] theorem computeMap_commitSeq : (s.computeMap).commitSeq = s.commitSeq := by rw [computeMap_frame]
@[simp] theorem computeMap_assemblers : (s.computeMap).assemblers = s.assemblers := by rw [computeMap_frame]
@[simp] theorem computeMap_subscriptions : (s.computeMap).subscriptions = s.subscriptions := by rw [computeMap_frame]
@[simp] theorem computeMap_mailboxes : (s.computeMap).mailboxes = s.mailboxes := by rw [computeMap_frame]
@[simp] theorem computeMap_txQueues : (s.computeMap).txQueues = s.txQueues := by rw [computeMap_frame]
@[simp] theorem computeMap_messageIds : (s.computeMap).messageIds = s.messageIds := by rw [computeMap_frame]
@[simp] theorem computeMap_ports : (s.computeMap).ports = s.ports := by rw [computeMap_frame]
@[simp] theorem computeMap_events : (s.computeMap).events = s.events := by rw [computeMap_frame]
@[simp] theorem computeMap_raised : (s.computeMap).raised = s.raised := by rw [computeMap_frame]
@[simp] theorem computeMap_chmNotices : (s.computeMap).chmNotices = s.chmNotices := by rw [computeMap_frame]
@[simp] theorem computeMap_rslNotices : (s.computeMap).rslNotices = s.rslNotices := by rw [computeMap_frame]
@[simp] theorem computeMap_msuNotices : (s.computeMap).msuNotices = s.msuNotices := by rw [computeMap_frame]
@[simp] theorem computeMap_evuNotices : (s.computeMap).evuNotices = s.evuNotices := by rw [computeMap_frame]
@[simp] theorem computeMap_txNotices : (s.computeMap).txNotices = s.txNotices := by rw [computeMap_frame]
@[simp] theorem computeMap_resetToReach : (s.computeMap).resetToReach = s.resetToReach := by rw [computeMap_frame]
@[simp] theorem computeMap_pending : (s.computeMap).pending = s.pending := by rw [computeMap_frame]

theorem transmit_frame :
    s.transmit = { s with transmitters := (s.transmit).transmitters, txQueues := (s.transmit).txQueues, txNotices := (s.transmit).txNotices } :=
  rfl

@[simp] theorem transmit_now : (s.transmit).now = s.now := by rw [transmit_frame]
@[simp] theorem transmit_receivers : (s.transmit).receivers = s.receivers := by rw [transmit_frame]
@[simp] theorem transmit_stores : (s.transmit).stores = s.stores := by rw [transmit_frame]
@[simp] theorem transmit_timing : (s.transmit).timing = s.timing := by rw [transmit_frame]
@[simp] theorem transmit_selector : (s.transmit).selector = s.selector := by rw [transmit_frame]
@[simp] theorem transmit_activeMap : (s.transmit).activeMap = s.activeMap := by rw [transmit_frame]
@[simp] theorem transmit_sessions : (s.transmit).sessions = s.sessions := by rw [transmit_frame]
@[simp] theorem transmit_everyone : (s.transmit).everyone = s.everyone := everyone_congr (transmit_sessions s)
@[simp] theorem transmit_claims : (s.transmit).claims = s.claims := by rw [transmit_frame]
@[simp] theorem transmit_staging : (s.transmit).staging = s.staging := by rw [transmit_frame]
@[simp] theorem transmit_commitQueue : (s.transmit).commitQueue = s.commitQueue := by rw [transmit_frame]
@[simp] theorem transmit_commitSeq : (s.transmit).commitSeq = s.commitSeq := by rw [transmit_frame]
@[simp] theorem transmit_assemblers : (s.transmit).assemblers = s.assemblers := by rw [transmit_frame]
@[simp] theorem transmit_subscriptions : (s.transmit).subscriptions = s.subscriptions := by rw [transmit_frame]
@[simp] theorem transmit_mailboxes : (s.transmit).mailboxes = s.mailboxes := by rw [transmit_frame]
@[simp] theorem transmit_messageIds : (s.transmit).messageIds = s.messageIds := by rw [transmit_frame]
@[simp] theorem transmit_ports : (s.transmit).ports = s.ports := by rw [transmit_frame]
@[simp] theorem transmit_events : (s.transmit).events = s.events := by rw [transmit_frame]
@[simp] theorem transmit_raised : (s.transmit).raised = s.raised := by rw [transmit_frame]
@[simp] theorem transmit_chmNotices : (s.transmit).chmNotices = s.chmNotices := by rw [transmit_frame]
@[simp] theorem transmit_rslNotices : (s.transmit).rslNotices = s.rslNotices := by rw [transmit_frame]
@[simp] theorem transmit_msuNotices : (s.transmit).msuNotices = s.msuNotices := by rw [transmit_frame]
@[simp] theorem transmit_evuNotices : (s.transmit).evuNotices = s.evuNotices := by rw [transmit_frame]
@[simp] theorem transmit_resetToReach : (s.transmit).resetToReach = s.resetToReach := by rw [transmit_frame]
@[simp] theorem transmit_pending : (s.transmit).pending = s.pending := by rw [transmit_frame]

theorem deliver_frame (m : MessageRecord) :
    s.deliver m = { s with mailboxes := (s.deliver m).mailboxes, raised := (s.deliver m).raised } :=
  rfl

theorem teardown_frame (p : Port) (y : EndReason) :
    s.teardown p y = { s with sessions := (s.teardown p y).sessions, claims := (s.teardown p y).claims, chmNotices := (s.teardown p y).chmNotices, rslNotices := (s.teardown p y).rslNotices, msuNotices := (s.teardown p y).msuNotices, evuNotices := (s.teardown p y).evuNotices, raised := (s.teardown p y).raised } :=
  rfl

@[simp] theorem teardown_now (p : Port) (y : EndReason) : (s.teardown p y).now = s.now := by rw [teardown_frame]
@[simp] theorem teardown_receivers (p : Port) (y : EndReason) : (s.teardown p y).receivers = s.receivers := by rw [teardown_frame]
@[simp] theorem teardown_stores (p : Port) (y : EndReason) : (s.teardown p y).stores = s.stores := by rw [teardown_frame]
@[simp] theorem teardown_transmitters (p : Port) (y : EndReason) : (s.teardown p y).transmitters = s.transmitters := by rw [teardown_frame]
@[simp] theorem teardown_timing (p : Port) (y : EndReason) : (s.teardown p y).timing = s.timing := by rw [teardown_frame]
@[simp] theorem teardown_selector (p : Port) (y : EndReason) : (s.teardown p y).selector = s.selector := by rw [teardown_frame]
@[simp] theorem teardown_activeMap (p : Port) (y : EndReason) : (s.teardown p y).activeMap = s.activeMap := by rw [teardown_frame]
@[simp] theorem teardown_staging (p : Port) (y : EndReason) : (s.teardown p y).staging = s.staging := by rw [teardown_frame]
@[simp] theorem teardown_commitQueue (p : Port) (y : EndReason) : (s.teardown p y).commitQueue = s.commitQueue := by rw [teardown_frame]
@[simp] theorem teardown_commitSeq (p : Port) (y : EndReason) : (s.teardown p y).commitSeq = s.commitSeq := by rw [teardown_frame]
@[simp] theorem teardown_assemblers (p : Port) (y : EndReason) : (s.teardown p y).assemblers = s.assemblers := by rw [teardown_frame]
@[simp] theorem teardown_subscriptions (p : Port) (y : EndReason) : (s.teardown p y).subscriptions = s.subscriptions := by rw [teardown_frame]
@[simp] theorem teardown_mailboxes (p : Port) (y : EndReason) : (s.teardown p y).mailboxes = s.mailboxes := by rw [teardown_frame]
@[simp] theorem teardown_txQueues (p : Port) (y : EndReason) : (s.teardown p y).txQueues = s.txQueues := by rw [teardown_frame]
@[simp] theorem teardown_messageIds (p : Port) (y : EndReason) : (s.teardown p y).messageIds = s.messageIds := by rw [teardown_frame]
@[simp] theorem teardown_ports (p : Port) (y : EndReason) : (s.teardown p y).ports = s.ports := by rw [teardown_frame]
@[simp] theorem teardown_events (p : Port) (y : EndReason) : (s.teardown p y).events = s.events := by rw [teardown_frame]
@[simp] theorem teardown_txNotices (p : Port) (y : EndReason) : (s.teardown p y).txNotices = s.txNotices := by rw [teardown_frame]
@[simp] theorem teardown_resetToReach (p : Port) (y : EndReason) : (s.teardown p y).resetToReach = s.resetToReach := by rw [teardown_frame]
@[simp] theorem teardown_pending (p : Port) (y : EndReason) : (s.teardown p y).pending = s.pending := by rw [teardown_frame]

theorem reachBlock_frame (b : ResetBlock) :
    s.reachBlock b = { s with receivers := (s.reachBlock b).receivers, stores := (s.reachBlock b).stores, transmitters := (s.reachBlock b).transmitters, selector := (s.reachBlock b).selector, activeMap := (s.reachBlock b).activeMap, staging := (s.reachBlock b).staging, commitQueue := (s.reachBlock b).commitQueue, assemblers := (s.reachBlock b).assemblers, subscriptions := (s.reachBlock b).subscriptions, mailboxes := (s.reachBlock b).mailboxes, txQueues := (s.reachBlock b).txQueues, ports := (s.reachBlock b).ports, events := (s.reachBlock b).events, raised := (s.reachBlock b).raised } := by
  unfold reachBlock; split <;> try rfl
  unfold softResetSelector; rw [recompute_frame]; rfl

@[simp] theorem reachBlock_now (b : ResetBlock) : (s.reachBlock b).now = s.now := by rw [reachBlock_frame]
@[simp] theorem reachBlock_timing (b : ResetBlock) : (s.reachBlock b).timing = s.timing := by rw [reachBlock_frame]
@[simp] theorem reachBlock_sessions (b : ResetBlock) : (s.reachBlock b).sessions = s.sessions := by rw [reachBlock_frame]
@[simp] theorem reachBlock_everyone (b : ResetBlock) : (s.reachBlock b).everyone = s.everyone := everyone_congr (reachBlock_sessions s b)
@[simp] theorem reachBlock_claims (b : ResetBlock) : (s.reachBlock b).claims = s.claims := by rw [reachBlock_frame]
@[simp] theorem reachBlock_commitSeq (b : ResetBlock) : (s.reachBlock b).commitSeq = s.commitSeq := by rw [reachBlock_frame]
@[simp] theorem reachBlock_messageIds (b : ResetBlock) : (s.reachBlock b).messageIds = s.messageIds := by rw [reachBlock_frame]
@[simp] theorem reachBlock_chmNotices (b : ResetBlock) : (s.reachBlock b).chmNotices = s.chmNotices := by rw [reachBlock_frame]
@[simp] theorem reachBlock_rslNotices (b : ResetBlock) : (s.reachBlock b).rslNotices = s.rslNotices := by rw [reachBlock_frame]
@[simp] theorem reachBlock_msuNotices (b : ResetBlock) : (s.reachBlock b).msuNotices = s.msuNotices := by rw [reachBlock_frame]
@[simp] theorem reachBlock_evuNotices (b : ResetBlock) : (s.reachBlock b).evuNotices = s.evuNotices := by rw [reachBlock_frame]
@[simp] theorem reachBlock_txNotices (b : ResetBlock) : (s.reachBlock b).txNotices = s.txNotices := by rw [reachBlock_frame]
@[simp] theorem reachBlock_resetToReach (b : ResetBlock) : (s.reachBlock b).resetToReach = s.resetToReach := by rw [reachBlock_frame]
@[simp] theorem reachBlock_pending (b : ResetBlock) : (s.reachBlock b).pending = s.pending := by rw [reachBlock_frame]

theorem reachAll_frame :
    s.reachAll = { s with receivers := (s.reachAll).receivers, stores := (s.reachAll).stores, transmitters := (s.reachAll).transmitters, selector := (s.reachAll).selector, activeMap := (s.reachAll).activeMap, staging := (s.reachAll).staging, commitQueue := (s.reachAll).commitQueue, assemblers := (s.reachAll).assemblers, subscriptions := (s.reachAll).subscriptions, mailboxes := (s.reachAll).mailboxes, txQueues := (s.reachAll).txQueues, ports := (s.reachAll).ports, events := (s.reachAll).events, raised := (s.reachAll).raised } := by
  unfold reachAll
  generalize ResetBlock.all = l
  induction l generalizing s with
  | nil => rfl
  | cons b l ih => rw [List.foldl_cons, ih, reachBlock_frame]

@[simp] theorem reachAll_now : (s.reachAll).now = s.now := by rw [reachAll_frame]
@[simp] theorem reachAll_timing : (s.reachAll).timing = s.timing := by rw [reachAll_frame]
@[simp] theorem reachAll_sessions : (s.reachAll).sessions = s.sessions := by rw [reachAll_frame]
@[simp] theorem reachAll_everyone : (s.reachAll).everyone = s.everyone := everyone_congr (reachAll_sessions s)
@[simp] theorem reachAll_claims : (s.reachAll).claims = s.claims := by rw [reachAll_frame]
@[simp] theorem reachAll_commitSeq : (s.reachAll).commitSeq = s.commitSeq := by rw [reachAll_frame]
@[simp] theorem reachAll_messageIds : (s.reachAll).messageIds = s.messageIds := by rw [reachAll_frame]
@[simp] theorem reachAll_chmNotices : (s.reachAll).chmNotices = s.chmNotices := by rw [reachAll_frame]
@[simp] theorem reachAll_rslNotices : (s.reachAll).rslNotices = s.rslNotices := by rw [reachAll_frame]
@[simp] theorem reachAll_msuNotices : (s.reachAll).msuNotices = s.msuNotices := by rw [reachAll_frame]
@[simp] theorem reachAll_evuNotices : (s.reachAll).evuNotices = s.evuNotices := by rw [reachAll_frame]
@[simp] theorem reachAll_txNotices : (s.reachAll).txNotices = s.txNotices := by rw [reachAll_frame]
@[simp] theorem reachAll_resetToReach : (s.reachAll).resetToReach = s.resetToReach := by rw [reachAll_frame]
@[simp] theorem reachAll_pending : (s.reachAll).pending = s.pending := by rw [reachAll_frame]

@[simp] theorem drainRaised_raised : s.drainRaised.raised = [] := by
  unfold drainRaised
  have h : ∀ (l : List RaisedEvent) (t : State), (l.foldl (fun t ev => t.queueRaised ev) t).raised = t.raised := by
    intro l
    induction l with
    | nil => intro t; rfl
    | cons e l ih => intro t; rw [List.foldl_cons, ih]; rfl
  rw [h]

/-- Queuing an event changes nothing of a port but its transaction's mark. -/
theorem queueRaised_port (e : RaisedEvent) (p : Port) :
    (s.queueRaised e).ports.get p
      = { s.ports.get p with transaction := ((s.queueRaised e).ports.get p).transaction } := by
  simp only [queueRaised, Tab.get_tabulate, portAfter]; split <;> rfl

theorem drainRaised_port (p : Port) :
    s.drainRaised.ports.get p
      = { s.ports.get p with transaction := (s.drainRaised.ports.get p).transaction } := by
  unfold drainRaised
  have h : ∀ (l : List RaisedEvent) (t : State), (l.foldl (fun t ev => t.queueRaised ev) t).ports.get p
      = { t.ports.get p with
          transaction := ((l.foldl (fun t ev => t.queueRaised ev) t).ports.get p).transaction } := by
    intro l
    induction l with
    | nil => intro t; rfl
    | cons e l ih => intro t; rw [List.foldl_cons, ih, queueRaised_port]
  rw [h]

end Sys2Proof.Machine.State
end

