-- ==== Sys2Proof/Laws/Selector.lean ====
section
/-! SUPPORT. What the selector's operations keep of the selector itself, and that they only add to what is raised. -/

namespace Sys2Proof.Machine.State

variable (s : State)

@[simp] theorem dropRequest_sel_table (y : DropReason) : (s.dropRequest y).selector.table = s.selector.table := by
  unfold dropRequest; split <;> rfl

@[simp] theorem dropRequest_sel_phase (y : DropReason) : (s.dropRequest y).selector.phase = s.selector.phase := by
  unfold dropRequest; split <;> rfl

@[simp] theorem dropRequest_sel_revertive (y : DropReason) : (s.dropRequest y).selector.revertive = s.selector.revertive := by
  unfold dropRequest; split <;> rfl

@[simp] theorem dropRequest_sel_restoreWait (y : DropReason) : (s.dropRequest y).selector.restoreWait = s.selector.restoreWait := by
  unfold dropRequest; split <;> rfl

@[simp] theorem dropRequest_sel_holdoverLimit (y : DropReason) : (s.dropRequest y).selector.holdoverLimit = s.selector.holdoverLimit := by
  unfold dropRequest; split <;> rfl

@[simp] theorem dropRequest_sel_wclkGrade (y : DropReason) : (s.dropRequest y).selector.wclkGrade = s.selector.wclkGrade := by
  unfold dropRequest; split <;> rfl

@[simp] theorem dropRequest_sel_monitor (y : DropReason) : (s.dropRequest y).selector.monitor = s.selector.monitor := by
  unfold dropRequest; split <;> rfl

@[simp] theorem withdrawUnqualified_sel_table : (s.withdrawUnqualified).selector.table = s.selector.table := by
  unfold withdrawUnqualified; split
  · split
    · simp only [dropRequest_sel_table]
    · rfl
  · rfl

@[simp] theorem withdrawUnqualified_sel_phase : (s.withdrawUnqualified).selector.phase = s.selector.phase := by
  unfold withdrawUnqualified; split
  · split
    · simp only [dropRequest_sel_phase]
    · rfl
  · rfl

@[simp] theorem withdrawUnqualified_sel_revertive : (s.withdrawUnqualified).selector.revertive = s.selector.revertive := by
  unfold withdrawUnqualified; split
  · split
    · simp only [dropRequest_sel_revertive]
    · rfl
  · rfl

@[simp] theorem withdrawUnqualified_sel_restoreWait : (s.withdrawUnqualified).selector.restoreWait = s.selector.restoreWait := by
  unfold withdrawUnqualified; split
  · split
    · simp only [dropRequest_sel_restoreWait]
    · rfl
  · rfl

@[simp] theorem withdrawUnqualified_sel_holdoverLimit : (s.withdrawUnqualified).selector.holdoverLimit = s.selector.holdoverLimit := by
  unfold withdrawUnqualified; split
  · split
    · simp only [dropRequest_sel_holdoverLimit]
    · rfl
  · rfl

@[simp] theorem withdrawUnqualified_sel_wclkGrade : (s.withdrawUnqualified).selector.wclkGrade = s.selector.wclkGrade := by
  unfold withdrawUnqualified; split
  · split
    · simp only [dropRequest_sel_wclkGrade]
    · rfl
  · rfl

@[simp] theorem withdrawUnqualified_sel_monitor : (s.withdrawUnqualified).selector.monitor = s.selector.monitor := by
  unfold withdrawUnqualified; split
  · split
    · simp only [dropRequest_sel_monitor]
    · rfl
  · rfl

@[simp] theorem moveTo_sel_table (k : Option RowIx) : (s.moveTo k).selector.table = s.selector.table := by
  unfold moveTo; split <;> try rfl
  split <;> rfl

@[simp] theorem moveTo_sel_phase (k : Option RowIx) : (s.moveTo k).selector.phase = s.selector.phase := by
  unfold moveTo; split <;> try rfl
  split <;> rfl

@[simp] theorem moveTo_sel_revertive (k : Option RowIx) : (s.moveTo k).selector.revertive = s.selector.revertive := by
  unfold moveTo; split <;> try rfl
  split <;> rfl

@[simp] theorem moveTo_sel_restoreWait (k : Option RowIx) : (s.moveTo k).selector.restoreWait = s.selector.restoreWait := by
  unfold moveTo; split <;> try rfl
  split <;> rfl

@[simp] theorem moveTo_sel_holdoverLimit (k : Option RowIx) : (s.moveTo k).selector.holdoverLimit = s.selector.holdoverLimit := by
  unfold moveTo; split <;> try rfl
  split <;> rfl

@[simp] theorem moveTo_sel_wclkGrade (k : Option RowIx) : (s.moveTo k).selector.wclkGrade = s.selector.wclkGrade := by
  unfold moveTo; split <;> try rfl
  split <;> rfl

@[simp] theorem moveTo_sel_monitor (k : Option RowIx) : (s.moveTo k).selector.monitor = s.selector.monitor := by
  unfold moveTo; split <;> try rfl
  split <;> rfl

@[simp] theorem recompute_sel_table : (s.recompute).selector.table = s.selector.table := by
  simp only [recompute, moveTo_sel_table, withdrawUnqualified_sel_table]

@[simp] theorem recompute_sel_phase : (s.recompute).selector.phase = s.selector.phase := by
  simp only [recompute, moveTo_sel_phase, withdrawUnqualified_sel_phase]

@[simp] theorem recompute_sel_revertive : (s.recompute).selector.revertive = s.selector.revertive := by
  simp only [recompute, moveTo_sel_revertive, withdrawUnqualified_sel_revertive]

@[simp] theorem recompute_sel_restoreWait : (s.recompute).selector.restoreWait = s.selector.restoreWait := by
  simp only [recompute, moveTo_sel_restoreWait, withdrawUnqualified_sel_restoreWait]

@[simp] theorem recompute_sel_holdoverLimit : (s.recompute).selector.holdoverLimit = s.selector.holdoverLimit := by
  simp only [recompute, moveTo_sel_holdoverLimit, withdrawUnqualified_sel_holdoverLimit]

@[simp] theorem recompute_sel_wclkGrade : (s.recompute).selector.wclkGrade = s.selector.wclkGrade := by
  simp only [recompute, moveTo_sel_wclkGrade, withdrawUnqualified_sel_wclkGrade]

@[simp] theorem recompute_sel_monitor : (s.recompute).selector.monitor = s.selector.monitor := by
  simp only [recompute, moveTo_sel_monitor, withdrawUnqualified_sel_monitor]

@[simp] theorem recomputeFailed_sel_table : (s.recomputeFailed).selector.table = s.selector.table := by
  unfold recomputeFailed; simp only
  split <;> exact withdrawUnqualified_sel_table s

@[simp] theorem recomputeFailed_sel_phase : (s.recomputeFailed).selector.phase = s.selector.phase := by
  unfold recomputeFailed; simp only
  split <;> exact withdrawUnqualified_sel_phase s

@[simp] theorem recomputeFailed_sel_revertive : (s.recomputeFailed).selector.revertive = s.selector.revertive := by
  unfold recomputeFailed; simp only
  split <;> exact withdrawUnqualified_sel_revertive s

@[simp] theorem recomputeFailed_sel_restoreWait : (s.recomputeFailed).selector.restoreWait = s.selector.restoreWait := by
  unfold recomputeFailed; simp only
  split <;> exact withdrawUnqualified_sel_restoreWait s

@[simp] theorem recomputeFailed_sel_holdoverLimit : (s.recomputeFailed).selector.holdoverLimit = s.selector.holdoverLimit := by
  unfold recomputeFailed; simp only
  split <;> exact withdrawUnqualified_sel_holdoverLimit s

@[simp] theorem recomputeFailed_sel_wclkGrade : (s.recomputeFailed).selector.wclkGrade = s.selector.wclkGrade := by
  unfold recomputeFailed; simp only
  split <;> exact withdrawUnqualified_sel_wclkGrade s

@[simp] theorem recomputeFailed_sel_monitor : (s.recomputeFailed).selector.monitor = s.selector.monitor := by
  unfold recomputeFailed; simp only
  split <;> exact withdrawUnqualified_sel_monitor s

@[simp] theorem reportSources_sel_phase : s.reportSources.selector.phase = s.selector.phase := by
  unfold reportSources; split
  · rfl
  · simp

@[simp] theorem reportSources_sel_revertive : s.reportSources.selector.revertive = s.selector.revertive := by
  unfold reportSources; split
  · rfl
  · simp

@[simp] theorem reportSources_sel_restoreWait : s.reportSources.selector.restoreWait = s.selector.restoreWait := by
  unfold reportSources; split
  · rfl
  · simp

@[simp] theorem reportSources_sel_holdoverLimit : s.reportSources.selector.holdoverLimit = s.selector.holdoverLimit := by
  unfold reportSources; split
  · rfl
  · simp

@[simp] theorem reportSources_sel_wclkGrade : s.reportSources.selector.wclkGrade = s.selector.wclkGrade := by
  unfold reportSources; split
  · rfl
  · simp

@[simp] theorem reportSources_sel_monitor : s.reportSources.selector.monitor = s.selector.monitor := by
  unfold reportSources; split
  · rfl
  · simp

theorem reportSources_sel_table : s.reportSources.selector.table = s.followedTable := by
  unfold reportSources; split
  · rename_i h; exact h.symm
  · simp

theorem recompute_now_table (r : RowIx) : s.recompute.row r = s.row r := by simp [row]

/-! What is raised is only added to. -/

theorem raised_dropRequest (y : DropReason) : ∃ l, (s.dropRequest y).raised = s.raised ++ l := by
  unfold dropRequest; split
  · exact ⟨[], by simp⟩
  · exact ⟨_, rfl⟩

theorem raised_withdrawUnqualified : ∃ l, s.withdrawUnqualified.raised = s.raised ++ l := by
  unfold withdrawUnqualified; split
  · split
    · exact raised_dropRequest s _
    · exact ⟨[], by simp⟩
  · exact ⟨[], by simp⟩

theorem raised_moveTo (k : Option RowIx) : ∃ l, (s.moveTo k).raised = s.raised ++ l := by
  unfold moveTo; split
  · exact ⟨[], by simp⟩
  · exact ⟨_, rfl⟩
  · exact ⟨_, rfl⟩
  · split
    · exact ⟨[], by simp⟩
    · exact ⟨_, rfl⟩

theorem raised_recompute : ∃ l, s.recompute.raised = s.raised ++ l := by
  obtain ⟨a, ha⟩ := raised_withdrawUnqualified s
  obtain ⟨b, hb⟩ := raised_moveTo s.withdrawUnqualified s.withdrawUnqualified.target
  exact ⟨a ++ b, by simp only [recompute, hb, ha, List.append_assoc]⟩

/-- What a recomputation raises is the selector's and goes to everyone (R52, R58). -/
theorem raised_recompute_everyone : ∃ l, s.recompute.raised = s.raised ++ l
    ∧ ∀ e ∈ l, e.source = .selector ∧ e.audience = s.everyone := by
  have hw : ∃ l, s.withdrawUnqualified.raised = s.raised ++ l ∧ ∀ e ∈ l, e.source = .selector ∧ e.audience = s.everyone := by
    unfold withdrawUnqualified dropRequest
    repeat' split
    all_goals first
      | exact ⟨[], (List.append_nil _).symm, fun e he => absurd he List.not_mem_nil⟩
      | exact ⟨_, rfl, fun e he => by rcases List.mem_singleton.mp he with rfl; exact ⟨rfl, rfl⟩⟩
  have hm : ∀ (u : State) (k : Option RowIx), ∃ l, (u.moveTo k).raised = u.raised ++ l
      ∧ ∀ e ∈ l, e.source = .selector ∧ e.audience = u.everyone := by
    intro u k
    unfold moveTo
    repeat' split
    all_goals first
      | exact ⟨[], (List.append_nil _).symm, fun e he => absurd he List.not_mem_nil⟩
      | exact ⟨_, rfl, fun e he => by rcases List.mem_singleton.mp he with rfl; exact ⟨rfl, rfl⟩⟩
  obtain ⟨a, ha, ha'⟩ := hw
  obtain ⟨b, hb, hb'⟩ := hm s.withdrawUnqualified s.withdrawUnqualified.target
  refine ⟨a ++ b, by simp only [recompute, hb, ha, List.append_assoc], ?_⟩
  intro e he
  rcases List.mem_append.mp he with h | h
  · exact ha' e h
  · simpa using hb' e h

theorem raised_reportSources : ∃ l, s.reportSources.raised = s.raised ++ l := by
  unfold reportSources; split
  · exact ⟨[], by simp⟩
  · exact raised_recompute _

theorem mem_reportSources (e : RaisedEvent) (h : e ∈ s.raised) : e ∈ s.reportSources.raised := by
  obtain ⟨l, hl⟩ := raised_reportSources s
  rw [hl]; exact List.mem_append_left _ h

theorem mem_recompute (e : RaisedEvent) (h : e ∈ s.raised) : e ∈ s.recompute.raised := by
  obtain ⟨l, hl⟩ := raised_recompute s
  rw [hl]; exact List.mem_append_left _ h

/-- A boundary's take only adds to what is raised. -/
theorem raised_take : ∃ l, s.take.raised = s.raised ++ l := by
  unfold take; split
  · exact ⟨[], by simp⟩
  · split
    · exact ⟨[], by simp⟩
    · simp only; split
      · unfold rejectSet; split
        · exact ⟨_, rfl⟩
        · exact ⟨[], by simp⟩
      · exact ⟨_, rfl⟩

end Sys2Proof.Machine.State
end

