-- ==== Sys2Proof/Laws/Ports.lean ====
section
/-! SUPPORT. What taking a command frame does, once for every command: the lease renewed, gating, the command's own
rule, and its one response (R167 to R169). -/

namespace Sys2Proof.Machine

/-! ### The words of Safety.lean are the operations' own results -/

theorem renewLease_eq_leased (p : Port) (s : State) : s.renewLease p = leased p s := rfl

theorem onPort_answer_eq_answering (p : Port) (tag : Byte) (r : Reply) (s : State) :
    s.onPort p (PortState.answer tag r) = answering p tag r s := rfl

/-- A lease renewed changes the session table alone, and there a lease alone. -/
theorem leased_frame (p : Port) (s : State) : leased p s = { s with sessions := (leased p s).sessions } := by
  unfold leased; split <;> rfl

section leased

variable (p q : Port) (s : State)

@[simp] theorem leased_now : (leased p s).now = s.now := by rw [leased_frame]
@[simp] theorem leased_receivers : (leased p s).receivers = s.receivers := by rw [leased_frame]
@[simp] theorem leased_stores : (leased p s).stores = s.stores := by rw [leased_frame]
@[simp] theorem leased_transmitters : (leased p s).transmitters = s.transmitters := by rw [leased_frame]
@[simp] theorem leased_timing : (leased p s).timing = s.timing := by rw [leased_frame]
@[simp] theorem leased_selector : (leased p s).selector = s.selector := by rw [leased_frame]
@[simp] theorem leased_activeMap : (leased p s).activeMap = s.activeMap := by rw [leased_frame]
@[simp] theorem leased_claims : (leased p s).claims = s.claims := by rw [leased_frame]
@[simp] theorem leased_staging : (leased p s).staging = s.staging := by rw [leased_frame]
@[simp] theorem leased_commitQueue : (leased p s).commitQueue = s.commitQueue := by rw [leased_frame]
@[simp] theorem leased_commitSeq : (leased p s).commitSeq = s.commitSeq := by rw [leased_frame]
@[simp] theorem leased_assemblers : (leased p s).assemblers = s.assemblers := by rw [leased_frame]
@[simp] theorem leased_subscriptions : (leased p s).subscriptions = s.subscriptions := by rw [leased_frame]
@[simp] theorem leased_mailboxes : (leased p s).mailboxes = s.mailboxes := by rw [leased_frame]
@[simp] theorem leased_txQueues : (leased p s).txQueues = s.txQueues := by rw [leased_frame]
@[simp] theorem leased_messageIds : (leased p s).messageIds = s.messageIds := by rw [leased_frame]
@[simp] theorem leased_ports : (leased p s).ports = s.ports := by rw [leased_frame]
@[simp] theorem leased_events : (leased p s).events = s.events := by rw [leased_frame]
@[simp] theorem leased_raised : (leased p s).raised = s.raised := by rw [leased_frame]
@[simp] theorem leased_chmNotices : (leased p s).chmNotices = s.chmNotices := by rw [leased_frame]
@[simp] theorem leased_rslNotices : (leased p s).rslNotices = s.rslNotices := by rw [leased_frame]
@[simp] theorem leased_msuNotices : (leased p s).msuNotices = s.msuNotices := by rw [leased_frame]
@[simp] theorem leased_evuNotices : (leased p s).evuNotices = s.evuNotices := by rw [leased_frame]
@[simp] theorem leased_txNotices : (leased p s).txNotices = s.txNotices := by rw [leased_frame]
@[simp] theorem leased_resetToReach : (leased p s).resetToReach = s.resetToReach := by rw [leased_frame]
@[simp] theorem leased_pending : (leased p s).pending = s.pending := by rw [leased_frame]

@[simp] theorem leased_isOpen : ((leased p s).sessions.get q).isOpen = (s.sessions.get q).isOpen := by
  unfold leased; split
  · simp only [Tab.get_modify]; split
    · rename_i h; rw [h]
    · rfl
  · rfl

@[simp] theorem leased_number : ((leased p s).sessions.get q).number = (s.sessions.get q).number := by
  unfold leased; split
  · simp only [Tab.get_modify]; split
    · rename_i h; rw [h]
    · rfl
  · rfl

@[simp] theorem leased_leasePeriod : ((leased p s).sessions.get q).leasePeriod = (s.sessions.get q).leasePeriod := by
  unfold leased; split
  · simp only [Tab.get_modify]; split
    · rename_i h; rw [h]
    · rfl
  · rfl

@[simp] theorem leased_endReason : ((leased p s).sessions.get q).endReason = (s.sessions.get q).endReason := by
  unfold leased; split
  · simp only [Tab.get_modify]; split
    · rename_i h; rw [h]
    · rfl
  · rfl

@[simp] theorem leased_mask : ((leased p s).sessions.get q).mask = (s.sessions.get q).mask := by
  unfold leased; split
  · simp only [Tab.get_modify]; split
    · rename_i h; rw [h]
    · rfl
  · rfl

@[simp] theorem leased_precedence : ((leased p s).sessions.get q).precedence = (s.sessions.get q).precedence := by
  unfold leased; split
  · simp only [Tab.get_modify]; split
    · rename_i h; rw [h]
    · rfl
  · rfl

/-- A lease renewed bars no port and unbars none. -/
@[simp] theorem leased_everyone : (leased p s).everyone = s.everyone := by
  simp [State.everyone, State.barredPorts]

end leased

/-- A CLOSED port has no lease to renew. -/
theorem leased_closed (p : Port) (s : State) (h : ¬ HasSession p s) : leased p s = s := by
  unfold leased; rw [if_neg h]

/-! ### Gating -/

@[simp] theorem ofCode_code (c : Cmd) : Cmd.ofCode c.code = some c := by cases c <;> rfl

/-- Every command of the catalogue, given as a command of the part, is a frame that arrives at its port. -/
theorem exec_instr (c : Cmd) (p : Port) (tag : Byte) (ps : List Byte) (s : State) :
    exec (c.instr p tag ps) s = .next (s.commandArrives p tag c ps .whole) := by
  cases c <;> rfl

/-- A frame that finds its port ready is taken: the lease, gating with the command, the response. -/
theorem commandArrives_ready (p : Port) (tag : Byte) (c : Cmd) (ps : List Byte) (span : ResetSpan) (s : State)
    (h : Ready p s) :
    s.commandArrives p tag c ps span
      = answering p tag ((leased p s).gate p c.code ps span).2 ((leased p s).gate p c.code ps span).1 := by
  obtain ⟨h1, h2, h3⟩ := h
  have hb : s.blocked p = false := by simp [State.blocked, h1, h2]
  have hf : (s.ports.get p).full = false := decide_eq_false (Nat.not_le.mpr h3)
  rw [State.commandArrives, if_neg (by simp [hb]), State.takeFrame, if_neg (by simp [hf])]
  rfl

/-- What gating makes of a catalogue command whose checks all pass: the command's own rule. -/
theorem gate_pass (p : Port) (c : Cmd) (ps : List Byte) (span : ResetSpan) (s : State)
    (h1 : c.needsSession = true → HasSession p s) (h2 : c.needsRight = true → (s.sessions.get p).precedence = 3)
    (h3 : c.lengthOk ps.length = true) : s.gate p c.code ps span = c.handle p ps span s := by
  have a : ¬ (c.needsSession = true ∧ (!s.isOpen p) = true) := by
    rintro ⟨x, y⟩; have := h1 x; simp [State.isOpen, this] at y
  have b : ¬ (c.needsRight = true ∧ s.precedence p ≠ 3) := by
    rintro ⟨x, y⟩; exact y (h2 x)
  simp only [State.gate, ofCode_code, if_neg a, if_neg b, h3]
  rfl

/-- A frame taken whose checks all pass: the command's own rule on the state with the lease renewed, answered. -/
theorem command_taken (c : Cmd) (p : Port) (tag : Byte) (ps : List Byte) (s : State) (h : Ready p s)
    (h1 : c.needsSession = true → HasSession p s) (h2 : c.needsRight = true → (s.sessions.get p).precedence = 3)
    (h3 : c.lengthOk ps.length = true) :
    exec (c.instr p tag ps) s
      = .next (answering p tag (c.handle p ps .whole (leased p s)).2 (c.handle p ps .whole (leased p s)).1) := by
  rw [exec_instr, commandArrives_ready _ _ _ _ _ _ h, gate_pass]
  · intro x; simpa [HasSession] using h1 x
  · intro x; simpa using h2 x
  · exact h3

/-- A command that needs a session, on a CLOSED port. -/
theorem command_noSession (c : Cmd) (p : Port) (tag : Byte) (ps : List Byte) (s : State) (h : Ready p s)
    (h1 : c.needsSession = true) (h2 : ¬ HasSession p s) :
    exec (c.instr p tag ps) s = .next (answering p tag ⟨.noSession, []⟩ s) := by
  have h3 : (s.sessions.get p).isOpen = false := by simpa [HasSession] using h2
  rw [exec_instr, commandArrives_ready _ _ _ _ _ _ h, leased_closed p s h2]
  simp [State.gate, h1, State.isOpen, h3, refuse]

/-- A command that needs the configuration right, on a port of lower precedence. -/
theorem command_denied (c : Cmd) (p : Port) (tag : Byte) (ps : List Byte) (s : State) (h : Ready p s)
    (h1 : c.needsRight = true) (h2 : HasSession p s) (h3 : (s.sessions.get p).precedence ≠ 3) :
    exec (c.instr p tag ps) s = .next (answering p tag ⟨.denied, []⟩ (leased p s)) := by
  have h4 : (s.sessions.get p).isOpen = true := h2
  rw [exec_instr, commandArrives_ready _ _ _ _ _ _ h]
  simp [State.gate, h1, State.isOpen, h4, State.precedence, h3, refuse]

/-- A command of a length that the catalogue does not give it. -/
theorem command_badLength (c : Cmd) (p : Port) (tag : Byte) (ps : List Byte) (s : State) (h : Ready p s)
    (h1 : c.needsSession = true → HasSession p s) (h2 : c.needsRight = true → (s.sessions.get p).precedence = 3)
    (h3 : c.lengthOk ps.length = false) :
    exec (c.instr p tag ps) s = .next (answering p tag ⟨.badArg, []⟩ (leased p s)) := by
  have a : ¬ (c.needsSession = true ∧ (!(leased p s).isOpen p) = true) := by
    rintro ⟨x, y⟩; have := h1 x; simp [State.isOpen, HasSession] at y this; simp [this] at y
  have b : ¬ (c.needsRight = true ∧ (leased p s).precedence p ≠ 3) := by
    rintro ⟨x, y⟩; exact y (by simpa [State.precedence] using h2 x)
  rw [exec_instr, commandArrives_ready _ _ _ _ _ _ h]
  simp only [State.gate, ofCode_code, if_neg a, if_neg b, h3]
  rfl

/-! ### Bytes in (R153, R155, R165) -/

/-- Clocking the same number of bits, all low, gives as many whole bytes, all $00. -/
theorem wholeBytes_zero (sdi : List Bool) :
    (wholeBytes (sdi.map fun _ => false)).length = (wholeBytes sdi).length
      ∧ ∀ b ∈ wholeBytes (sdi.map fun _ => false), b = 0 := by
  induction sdi using wholeBytes.induct with
  | case1 a b c d e f g h rest ih =>
    simp only [List.map_cons, wholeBytes, List.length_cons, List.mem_cons]
    refine ⟨by rw [ih.1], ?_⟩
    rintro x (rfl | hx)
    · decide
    · exact ih.2 x hx
  | case2 l h =>
    rcases l with _ | ⟨a, _ | ⟨b, _ | ⟨c, _ | ⟨d, _ | ⟨e, _ | ⟨f, _ | ⟨g, _ | ⟨k, l⟩⟩⟩⟩⟩⟩⟩⟩
    all_goals first | (simp [wholeBytes]; done) | exact absurd rfl (h _ _ _ _ _ _ _ _ _)

theorem commandFrame_length (tag code : Byte) (ps : List Byte) : (commandFrame tag code ps).length = 5 + ps.length := by
  simp only [commandFrame, List.length_append, List.length_cons, List.length_nil]; omega

/-- Inbound bytes that begin with a command frame, six or more of them, are that command. -/
theorem classify_commandFrame (tag code : Byte) (ps extra : List Byte) (i : Inbound) (hp : ps.length ≤ 60)
    (hk : i.kept = (commandFrame tag code ps ++ extra).take 65) (hc : i.count = 5 + ps.length + extra.length)
    (hz : i.allZero = false) (h6 : 6 ≤ i.count) :
    i.classify = .good tag code ps ∧ i.noCommand = false := by
  have hl := commandFrame_length tag code ps
  have hn : i.noCommand = false := by simp only [Inbound.noCommand, hz, Bool.or_false]; exact decide_eq_false (by omega)
  have hk' : i.kept = commandFrame tag code ps ++ extra.take (65 - (5 + ps.length)) := by
    rw [hk, List.take_append, hl, List.take_of_length_le (by rw [hl]; omega)]
  have hL : i.paramLength = ps.length := by
    simp only [Inbound.paramLength, Inbound.byte, hk']
    simp [commandFrame]; omega
  have b0 : i.byte 0 = 0xA6 := by simp only [Inbound.byte, hk']; simp [commandFrame]
  have b1 : i.byte 1 = tag := by simp only [Inbound.byte, hk']; simp [commandFrame]
  have b2 : i.byte 2 = code := by simp only [Inbound.byte, hk']; simp [commandFrame]
  have ht : i.kept.take (4 + ps.length) = [0xA6, tag, code, BitVec.ofNat 8 ps.length] ++ ps := by
    rw [hk']; simp [commandFrame, Nat.add_comm 4]
  have hx : i.byte (4 + ps.length) = crc8 ([0xA6, tag, code, BitVec.ofNat 8 ps.length] ++ ps) := by
    simp only [Inbound.byte, hk', commandFrame]
    rw [List.append_assoc, List.getD_append_right _ _ _ _ (by simp; omega)]
    simp only [List.length_append, List.length_cons, List.length_nil]
    rw [show 4 + ps.length - (0 + 1 + 1 + 1 + 1 + ps.length) = 0 by omega]; rfl
  refine ⟨?_, hn⟩
  simp only [Inbound.classify, hn, Bool.false_eq_true, if_false, hL]
  rw [if_neg (by simp [b0]), if_neg (by simp only [Config.paramMax]; omega), ht, hx, if_neg (by simp), b1, b2]
  congr 1
  rw [hk']; simp [commandFrame]

end Sys2Proof.Machine
end

