-- ==== Sys2Proof/Laws/Operations.lean ====
section
/-! SUPPORT. One lemma per shared operation that later proofs cite instead of unfolding it: notices taken, teardown,
requests dropped, staging, the commit queue, assemblers, delivery, and the bytes of a frame sent. -/

namespace Sys2Proof.Machine

/-! ### Taking the oldest item that meets a test -/

theorem takeFirst_append {α : Type} (f : α → Bool) (pre post : List α) (x : α) (h : f x = true)
    (h2 : ∀ y ∈ pre, f y = false) : takeFirst f (pre ++ x :: post) = some (x, pre ++ post) := by
  induction pre with
  | nil => simp [takeFirst, h]
  | cons y ys ih => simp [takeFirst, h2 y (by simp), ih (fun z hz => h2 z (by simp [hz]))]

theorem takeFirst_none {α : Type} (f : α → Bool) (l : List α) (h : ∀ y ∈ l, f y = false) : takeFirst f l = none := by
  induction l with
  | nil => rfl
  | cons y ys ih => simp [takeFirst, h y (by simp), ih (fun z hz => h z (by simp [hz]))]

/-! ### Sessions and requests -/

/-- A teardown is what Safety.lean's words say of it (R90, R91). -/
theorem teardown_eq_tornDown (p : Port) (why : EndReason) (s : State) :
    s.teardown p why = tornDown p why (peerOf why) s := by
  unfold State.teardown tornDown
  simp only [State.onSession, State.raise, State.sessionNo]
  congr 1
  refine Tab.ext_get fun d => ?_
  simp only [Tab.get_map, Tab.get_tabulate, releaseOwner]
  rcases s.claims.get d with _ | w
  · rfl
  · simp

theorem openRow_fst_eq_opened (p : Port) (l : Nat) (s : State) : (s.openRow p l).1 = opened p l s := rfl

theorem openWith_iff (s : State) (p : Port) (k : SessionNo) :
    s.openWith p k = true ↔ (s.sessions.get p).isOpen = true ∧ (s.sessions.get p).number = k := by
  simp [State.openWith, State.isOpen, State.sessionNo]

/-- What stands is what the slot holds while its owner's session is open (R54). -/
theorem standing_eq_some (s : State) (q : Request) :
    s.standing = some q ↔ s.selector.request = some q ∧ stands s q := by
  simp only [State.standing, Option.filter_eq_some_iff, openWith_iff]

theorem standing_of_none {s : State} (h : s.selector.request = none) : s.standing = none := by
  simp only [State.standing, h]; rfl

theorem standing_of_stands {s : State} {q : Request} (h : s.selector.request = some q) (hs : stands s q) :
    s.standing = some q := (standing_eq_some s q).mpr ⟨h, hs⟩

theorem standing_of_ended {s : State} {q : Request} (h : s.selector.request = some q) (hs : ¬ stands s q) :
    s.standing = none := by
  rcases hq : s.standing with _ | x
  · rfl
  · obtain ⟨hx, hy⟩ := (standing_eq_some s x).mp hq
    rw [h] at hx; cases hx; exact absurd hy hs

/-- What stands depends on the slot and the Session Table alone. -/
theorem standing_congr {s t : State} (h : t.selector.request = s.selector.request) (h2 : t.sessions = s.sessions) :
    t.standing = s.standing := by
  simp only [State.standing, State.openWith, State.isOpen, State.sessionNo, h, h2]

/-- A standing request that leaves the slot (R58). -/
theorem dropRequest_of_some (s : State) (q : Request) (why : DropReason) (h : s.selector.request = some q) :
    s.dropRequest why = { s with
      selector := { s.selector with request := none }
      raised := s.raised ++ [⟨.selector, s.everyone, .refRequestDropped q.kind q.row q.owner why⟩] } := by
  simp only [State.dropRequest, h]; rfl

/-- A command takes the request out of the slot (R58, R59). -/
theorem withdraw_of_some (s : State) (q : Request) (why : DropReason) (h : s.selector.request = some q) :
    s.withdraw why = { s with
      selector := { s.selector with request := none }, raised := s.raised ++ [dropEvent s why q] } := by
  unfold State.withdraw dropEvent
  by_cases hs : stands s q
  · simp only [h, if_pos hs, if_pos ((openWith_iff s q.owner q.session).mpr hs), dropRequest_of_some s q why h]
  · have ho : s.openWith q.owner q.session = false := by
      simpa using mt (openWith_iff s q.owner q.session).mp hs
    simp only [h, ho, if_neg hs, State.hiddenFrom, Bool.false_eq_true, if_false,
      dropRequest_of_some { s with raised := [] } q .ownerEnded h]
    rfl

theorem withdraw_of_none (s : State) (why : DropReason) (h : s.selector.request = none) : s.withdraw why = s := by
  simp only [State.withdraw, h]

/-- The slot as a response carries it (R55, R60). -/
theorem requestBytes_standing (s : State) : requestBytes s.standing = requestData s := by
  unfold requestData
  rcases hq : s.selector.request with _ | q
  · rw [standing_of_none hq]; rfl
  · by_cases hs : stands s q
    · rw [standing_of_stands hq hs]
      simp [requestBytes, if_pos hs, small, numByte, rowNumByte, rowByte, portByte, orNone]
    · rw [standing_of_ended hq hs]
      simp only [if_neg hs]; rfl

theorem slotReply_eq_slotData (s : State) : slotReply s = ⟨.ok, slotData s⟩ := by
  simp only [slotReply, slotData, ok, requestBytes_standing]
  cases h : s.selector.state.row <;> simp [small, numByte, rowNumByte, rowByte, orNone]

theorem stands_leased (p : Port) (s : State) (q : Request) : stands (leased p s) q ↔ stands s q := by
  simp [stands]

theorem standing_leased (p : Port) (s : State) : (leased p s).standing = s.standing := by
  rcases hq : s.selector.request with _ | q
  · rw [standing_of_none hq, standing_of_none (by simp [hq])]
  · by_cases h : stands s q
    · rw [standing_of_stands hq h, standing_of_stands (by simp [hq]) ((stands_leased p s q).mpr h)]
    · rw [standing_of_ended hq h, standing_of_ended (by simp [hq]) (fun x => h ((stands_leased p s q).mp x))]
/-- A request placed by a command taken (R55, R56). -/
theorem placeRequest_leased (p : Port) (k : RequestKind) (r : RowIx) (s : State) :
    (placeRequest k r p (leased p s)).1 = State.recompute { leased p s with
      selector := { s.selector with request := some ⟨k, r, p, (s.sessions.get p).number⟩ }
      raised := s.raised ++ replacedBy p s } := by
  simp only [placeRequest, replacedBy]
  refine congrArg State.recompute ?_
  rcases hq : s.selector.request with _ | q
  · simp [standing_leased, standing_of_none hq, withdraw_of_none, hq, State.onSelector, State.sessionNo]
  · have hm : (leased p s).selector.request = some q := by simp [hq]
    have hd : dropEvent (leased p s) .superseded q = dropEvent s .superseded q := by
      simp [dropEvent, stands_leased]
    by_cases h : stands s q
    · by_cases ho : q.owner = p
      · subst ho; simp [standing_leased, standing_of_stands hq h, h.1, h.2, State.onSelector, State.sessionNo]
      · simp [standing_leased, standing_of_stands hq h, ho, State.onSelector, State.sessionNo]
        rw [withdraw_of_some _ _ _ hm, hd]; simp
    · simp [standing_leased, standing_of_ended hq h, h, State.onSelector, State.sessionNo]
      rw [withdraw_of_some _ _ _ hm, hd]; simp

/-! ### Staging and the commit queue -/

/-- Emptying a stale set gives freshSet (R104). -/
theorem freshStaging_leased (p : Port) (s : State) :
    (leased p s).freshStaging p = withStaging p (freshSet s p) (leased p s) := by
  simp only [State.freshStaging, State.onStaging, withStaging, Tab.modify, freshSet, Staging.fresh, State.sessionNo,
    Staging.initial, leased_staging, leased_number]
  congr 2
  by_cases h : (s.staging.get p).session = none ∨ (s.staging.get p).session = some (s.sessions.get p).number
  · rw [if_pos h, if_neg (by rintro ⟨a, b⟩; rcases h with h | h <;> contradiction)]
  · rw [if_neg h, if_pos]; exact not_or.mp h

/-- The place of a destination's only record. -/
theorem recordIndex_split (d : Dest) (pre post : List ChangeRecord) (old : ChangeRecord) (h : old.dest = d)
    (h2 : ∀ x ∈ pre ++ post, x.dest ≠ d) : recordIndex d (pre ++ old :: post) = some pre.length := by
  induction pre with
  | nil => simp [recordIndex, h, List.findIdx?_cons]
  | cons y ys ih =>
    have h3 : y.dest ≠ d := h2 y (by simp)
    have h4 := ih (fun x hx => h2 x (by simp at hx ⊢; tauto))
    simp [recordIndex, List.findIdx?_cons, h3] at h4 ⊢
    exact h4

/-- Where a set is placed in the commit queue, and how many are ahead of it (R115). -/
theorem insertSet_split (x : ChangeSet) (q : List ChangeSet) :
    ∃ before behind, q = before ++ behind ∧ (∀ y ∈ before, atOrAfter x.due y.due = true)
      ∧ (∀ y rest, behind = y :: rest → atOrAfter x.due y.due = false)
      ∧ insertSet x q = before ++ x :: behind ∧ setsAhead x q = before.length := by
  induction q with
  | nil => exact ⟨[], [], rfl, by simp, by simp, rfl, rfl⟩
  | cons y ys ih =>
    by_cases h : atOrAfter x.due y.due = true
    · obtain ⟨a, b, h1, h2, h3, h4, h5⟩ := ih
      refine ⟨y :: a, b, by rw [h1]; rfl, ?_, h3, by simp [insertSet, h, h4], by simp [setsAhead, h, h5]⟩
      intro z hz; simp at hz; rcases hz with rfl | hz
      · exact h
      · exact h2 z hz
    · refine ⟨[], y :: ys, rfl, by simp, ?_, by simp [insertSet, h], by simp [setsAhead, h]⟩
      rintro z r hz; cases hz; simpa using h

/-- The listed sets with the number of sets ahead of each (R118). -/
theorem listedSets_eq (p : Port) (number : SessionNo) (l : List ChangeSet) (k : Nat) :
    listedSets p number k l
      = ((l.zipIdx k).filter fun y => y.1.id.port = p ∧ y.1.session = number).flatMap fun y =>
          [numByte p] ++ bytes16 y.1.id.sequence ++ bytes32 y.1.due ++ small y.1.records.length ++ small y.2 := by
  induction l generalizing k with
  | nil => rfl
  | cons x xs ih =>
    simp only [listedSets, ih, List.zipIdx_cons, List.filter_cons]
    by_cases h : x.id.port = p ∧ x.session = number
    · simp [h, commitIdBytes, small, numByte]
    · simp [h]

/-! ### Assemblers and delivery -/

/-- A leaving notice abandons the message without a count (R133). -/
theorem sideItem_leaving (s : State) (n : Link) :
    s.sideItem n .leaving = s.onAssembler n fun a => { a with buffer := none } := by
  rcases h : (s.assemblers.get n).buffer with _ | b
  · simp [State.sideItem, Assembler.item, h, Assembler.idleItem, State.onAssembler, Tab.modify]
    rcases h' : s.assemblers.get n with ⟨⟩
    simp only [h'] at h
    subst h
    rw [← h', Tab.put_get]
  · simp [State.sideItem, Assembler.item, h, Assembler.assemblingItem, State.onAssembler, Tab.modify]

/-- Delivery settled changes neither the held frame nor the soft reset in progress. -/
theorem settle_held (p : Port) (t : Transaction) (k : Nat) (s : State) :
    ((s.settle p t k).ports.get p).held = (s.ports.get p).held ∧ (s.settle p t k).resetToReach = s.resetToReach := by
  unfold State.settle; split
  · split
    · simp
    · simp
    · split <;> simp
  · simp

/-! ### The bytes of a frame sent (R25) -/

section buildFrame

variable (g : Grade) (c : SideField) (x : Samples)

theorem byte_buildFrame (k : Fin 54) (h : k.val < 53) :
    LinkFrame.byte (buildFrame g c x) k = (frameBody g c x)[k.val]'(by rw [frameBody_length]; exact h) := by
  simp only [LinkFrame.byte, Tab.get, buildFrame]
  rw [List.getElem_append_left]

theorem aligned_buildFrame : LinkFrame.aligned (buildFrame g c x) = true := by
  simp only [LinkFrame.aligned, byte_buildFrame _ _ _ 0 (by decide), byte_buildFrame _ _ _ 1 (by decide)]
  rfl

theorem crcGood_buildFrame : LinkFrame.crcGood (buildFrame g c x) = true := by
  have h : LinkFrame.byte (buildFrame g c x) 53 = crc8 (frameBody g c x) := by
    simp only [LinkFrame.byte, Tab.get, buildFrame]
    rw [List.getElem_append_right (by rw [frameBody_length]; decide)]
    simp [frameBody_length]
  rw [LinkFrame.crcGood, h]
  simp [buildFrame]

theorem flags_buildFrame : LinkFrame.byte (buildFrame g c x) 2 = flagsByte g c.code := by
  rw [byte_buildFrame _ _ _ 2 (by decide)]; rfl

theorem grade_buildFrame : LinkFrame.grade (buildFrame g c x) = g := by
  rw [LinkFrame.grade, flags_buildFrame]
  obtain ⟨k, _, _⟩ := c
  simp only [flagsByte]
  revert g k; decide

theorem sideCode_buildFrame : LinkFrame.sideCode (buildFrame g c x) = c.code := by
  rw [LinkFrame.sideCode, flags_buildFrame]
  obtain ⟨k, _, _⟩ := c
  simp only [flagsByte]
  revert g k; decide

theorem reserved_buildFrame : (LinkFrame.byte (buildFrame g c x) 2).extractLsb' 6 2 = 0 := by
  rw [flags_buildFrame]
  obtain ⟨k, _, _⟩ := c
  simp only [flagsByte]
  revert g k; decide

/-- Three bytes a sample: the length, and byte j of sample i. -/
theorem flatMap_sampleBytes_getElem (l : List Sample) :
    (l.flatMap sampleBytes).length = 3 * l.length
      ∧ ∀ i (h : i < l.length) (h0 : 3 * i < (l.flatMap sampleBytes).length)
          (h1 : 3 * i + 1 < (l.flatMap sampleBytes).length) (h2 : 3 * i + 2 < (l.flatMap sampleBytes).length),
        (l.flatMap sampleBytes)[3 * i] = l[i].extractLsb' 16 8
          ∧ (l.flatMap sampleBytes)[3 * i + 1] = l[i].extractLsb' 8 8
          ∧ (l.flatMap sampleBytes)[3 * i + 2] = l[i].extractLsb' 0 8 := by
  induction l with
  | nil => exact ⟨rfl, fun i h => absurd h (by simp)⟩
  | cons y ys ih =>
    refine ⟨?_, ?_⟩
    · simp only [List.flatMap_cons, List.length_append, ih.1, List.length_cons]
      simp only [sampleBytes, List.length_cons, List.length_nil]; omega
    · intro i h h0 h1 h2
      rcases i with _ | i
      · exact ⟨rfl, rfl, rfl⟩
      · have hi : i < ys.length := by simpa using h
        obtain ⟨e0, e1, e2⟩ := ih.2 i hi (by rw [ih.1]; omega) (by rw [ih.1]; omega) (by rw [ih.1]; omega)
        refine ⟨?_, ?_, ?_⟩
        · exact e0
        · exact e1
        · exact e2

/-- Slot i of the frame sent is sample i. -/
theorem slot_buildFrame (i : Slot) : LinkFrame.slot (buildFrame g c x) i = x.get i := by
  obtain ⟨hl, hb⟩ := flatMap_sampleBytes_getElem x.cells
  rw [x.size] at hl
  have hi : i.val < x.cells.length := by rw [x.size]; exact i.isLt
  obtain ⟨e0, e1, e2⟩ := hb i.val hi (by rw [hl]; omega) (by rw [hl]; omega) (by rw [hl]; omega)
  have key : ∀ (k : Nat) (h : 3 + k < 54) (h' : k < (x.cells.flatMap sampleBytes).length),
      LinkFrame.byte (buildFrame g c x) ⟨3 + k, h⟩ = (x.cells.flatMap sampleBytes)[k] := by
    intro k h h'
    rw [byte_buildFrame _ _ _ _ (by simp only; omega)]
    simp only [frameBody, List.append_assoc]
    rw [List.getElem_append_right (by simp), List.getElem_append_left (by simpa using h')]
    simp
  have k0 := key (3 * i.val) (by omega) (by rw [hl]; omega)
  have k1 := key (3 * i.val + 1) (by omega) (by rw [hl]; omega)
  have k2 := key (3 * i.val + 2) (by omega) (by rw [hl]; omega)
  have f1 : (⟨4 + 3 * i.val, by omega⟩ : Fin 54) = ⟨3 + (3 * i.val + 1), by omega⟩ := by ext; simp only; omega
  have f2 : (⟨5 + 3 * i.val, by omega⟩ : Fin 54) = ⟨3 + (3 * i.val + 2), by omega⟩ := by ext; simp only; omega
  rw [LinkFrame.slot, k0, f1, k1, f2, k2, e0, e1, e2, word24_sampleBytes]
  rfl

theorem sideBytes_buildFrame :
    LinkFrame.sideA (buildFrame g c x) = c.a ∧ LinkFrame.sideB (buildFrame g c x) = c.b := by
  obtain ⟨hl, _⟩ := flatMap_sampleBytes_getElem x.cells
  rw [x.size] at hl
  refine ⟨?_, ?_⟩
  · rw [LinkFrame.sideA, byte_buildFrame _ _ _ 51 (by decide)]
    simp only [frameBody]
    rw [List.getElem_append_right (by simp [hl])]
    simp [hl]
  · rw [LinkFrame.sideB, byte_buildFrame _ _ _ 52 (by decide)]
    simp only [frameBody]
    rw [List.getElem_append_right (by simp [hl])]
    simp [hl]

end buildFrame

end Sys2Proof.Machine
end

