-- ==== Sys2Proof/Laws/Commits.lean ====
section
/-! SUPPORT. What keeps a commit queue legal (CommitQueueLegal of Safety.lean): sets removed, a set committed, and a
boundary; and the audience of raised events (R183). -/

namespace Sys2Proof.Machine

/-! ### The commit queue (R115, R119) -/

/-- The sets of a queue are those of the four ports. -/
theorem length_eq_setsOf (q : List ChangeSet) :
    q.length = setsOf 0 q + setsOf 1 q + setsOf 2 q + setsOf 3 q := by
  induction q with
  | nil => rfl
  | cons x xs ih =>
    have h : ∀ p, setsOf p (x :: xs) = setsOf p xs + if x.id.port = p then 1 else 0 := by
      intro p
      simp only [setsOf, List.filter_cons]
      by_cases e : x.id.port = p <;> simp [e]
    have hp : x.id.port = 0 ∨ x.id.port = 1 ∨ x.id.port = 2 ∨ x.id.port = 3 := by
      generalize x.id.port = p; revert p; decide
    rw [List.length_cons, ih, h, h, h, h]
    rcases hp with e | e | e | e <;> rw [e] <;> simp <;> omega

/-- A part of a legal commit queue is legal: what is left moves up. -/
theorem CommitQueueLegal.sublist {c : FrameNo} {q r : List ChangeSet} (h : CommitQueueLegal c q) (hr : r.Sublist q) :
    CommitQueueLegal c r := by
  refine ⟨h.1.sublist hr, ?_⟩
  have key : ∀ {r q : List ChangeSet}, r.Sublist q → ∀ (i : Nat) (x : ChangeSet), r[i]? = some x →
      ∃ j, i ≤ j ∧ q[j]? = some x := by
    intro r q hr
    induction hr with
    | slnil => intro i x hx; exact ⟨i, le_refl _, hx⟩
    | cons y _ ih =>
      intro i x hx
      obtain ⟨j, h1, h2⟩ := ih i x hx
      exact ⟨j + 1, by omega, by simpa using h2⟩
    | cons_cons y _ ih =>
      intro i x hx
      rcases i with _ | i
      · exact ⟨0, le_refl _, by simpa using hx⟩
      · obtain ⟨j, h1, h2⟩ := ih i x (by simpa using hx)
        exact ⟨j + 1, by omega, by simpa using h2⟩
  intro i x hx
  obtain ⟨j, h1, h2⟩ := key hr i x hx
  obtain ⟨h3, h4⟩ := h.2 j x h2
  exact ⟨by omega, h4⟩

/-- A frame later every set is one frame nearer, as long as none was at the far end of the numbers. -/
theorem framesAhead_succ (c d : FrameNo) (h1 : -6 ≤ framesAhead c d) (h2 : framesAhead c d ≤ 480000) :
    framesAhead (c + 1) d = framesAhead c d - 1 := by
  simp only [framesAhead] at *
  have : d - (c + 1) = (d - c) - 1 := by ring
  rw [this]
  generalize d - c = e at *
  rw [BitVec.toInt_sub]
  have : (1 : BitVec 32).toInt = 1 := by decide
  rw [this, Int.bmod_eq_of_le] <;> omega

/-- Near the current frame, the order of 00 section 4.3 is that of the distances. -/
theorem framesAhead_atOrAfter (c a b : FrameNo) (ha1 : -7 ≤ framesAhead c a) (ha2 : framesAhead c a ≤ 480000)
    (hb1 : -7 ≤ framesAhead c b) (hb2 : framesAhead c b ≤ 480000) :
    atOrAfter a b = decide (framesAhead c b ≤ framesAhead c a) := by
  have key : ∀ x y : BitVec 32, -7 ≤ x.toInt → x.toInt ≤ 480000 → -7 ≤ y.toInt → y.toInt ≤ 480000 →
      ((x - y).toNat < 2 ^ 31 ↔ y.toInt ≤ x.toInt) := by
    intro x y h1 h2 h3 h4
    rw [BitVec.toInt_eq_toNat_cond] at *
    rw [BitVec.toInt_eq_toNat_cond] at *
    simp only [BitVec.toNat_sub]
    have := x.isLt
    have := y.isLt
    split at * <;> split at * <;> omega
  have e : a - b = (a - c) - (b - c) := by ring
  simp only [framesAhead] at *
  rw [atOrAfter, e]
  exact decide_eq_decide.mpr (key _ _ ha1 ha2 hb1 hb2)

/-- A set committed takes its place (R112, R115). -/
theorem CommitQueueLegal.insert {c : FrameNo} {q : List ChangeSet} {x : ChangeSet} (h : CommitQueueLegal c q)
    (hx1 : 1 ≤ framesAhead c x.due) (hx2 : framesAhead c x.due ≤ 480000) (hl : q.length ≤ 7) :
    CommitQueueLegal c (insertSet x q) := by
  obtain ⟨before, behind, rfl, h1, h2, h3, -⟩ := insertSet_split x q
  rw [h3]
  have hr : ∀ y ∈ before ++ behind, -6 ≤ framesAhead c y.due ∧ framesAhead c y.due ≤ 480000 := by
    intro y hy
    obtain ⟨i, hi⟩ := List.mem_iff_getElem?.mp hy
    have := h.2 i y hi
    exact ⟨by omega, this.2⟩
  obtain ⟨hp, hq⟩ := h
  obtain ⟨hp1, hp2, hp3⟩ := List.pairwise_append.mp hp
  have hbef : ∀ y ∈ before, framesAhead c y.due ≤ framesAhead c x.due := by
    intro y hy
    have := hr y (by simp [hy])
    have e := framesAhead_atOrAfter c x.due y.due (by omega) hx2 (by omega) this.2
    rw [h1 y hy] at e
    simpa using e.symm
  have hbeh : ∀ y ∈ behind, framesAhead c x.due < framesAhead c y.due := by
    intro y hy
    rcases behind with _ | ⟨z, zs⟩
    · cases hy
    have hz := hr z (by simp)
    have e := framesAhead_atOrAfter c x.due z.due (by omega) hx2 (by omega) hz.2
    rw [h2 z zs rfl] at e
    have hlt : framesAhead c x.due < framesAhead c z.due := by simpa using e.symm
    rcases List.mem_cons.mp hy with rfl | hy
    · exact hlt
    · have := (List.pairwise_cons.mp hp2).1 y hy
      omega
  refine ⟨List.pairwise_append.mpr ⟨hp1, List.pairwise_cons.mpr ⟨fun y hy => le_of_lt (hbeh y hy), hp2⟩, ?_⟩, ?_⟩
  · intro y hy z hz
    rcases List.mem_cons.mp hz with rfl | hz
    · exact hbef y hy
    · exact hp3 y hy z hz
  · intro i y hy
    have hlen : (before ++ x :: behind).length ≤ 8 := by simp at hl ⊢; omega
    have hi : i < (before ++ x :: behind).length := (List.getElem?_eq_some_iff.mp hy).1
    by_cases hib : i < before.length
    · rw [List.getElem?_append_left hib] at hy
      have := hq i y (by rw [List.getElem?_append_left hib]; exact hy)
      exact this
    · rw [List.getElem?_append_right (by omega)] at hy
      have hm : y ∈ x :: behind := List.mem_of_getElem? hy
      rcases List.mem_cons.mp hm with rfl | hm
      · exact ⟨by omega, hx2⟩
      · have := hbeh y hm
        exact ⟨by omega, (hr y (by simp [hm])).2⟩

/-- A boundary: the head leaves when it is due, and every other set is one frame nearer (R119). -/
theorem CommitQueueLegal.tick {c : FrameNo} {q : List ChangeSet} (h : CommitQueueLegal c q) (hl : q.length ≤ 8) :
    CommitQueueLegal (c + 1) (match q with
      | [] => []
      | x :: rest => if after x.due (c + 1) then x :: rest else rest) := by
  have hr : ∀ y ∈ q, framesAhead (c + 1) y.due = framesAhead c y.due - 1 := by
    intro y hy
    obtain ⟨i, hi⟩ := List.mem_iff_getElem?.mp hy
    have := h.2 i y hi
    exact framesAhead_succ c y.due (by omega) this.2
  have hpw : q.Pairwise fun x y => framesAhead (c + 1) x.due ≤ framesAhead (c + 1) y.due := by
    refine h.1.imp_of_mem ?_
    intro y z hy hz hyz
    rw [hr y hy, hr z hz]; omega
  rcases q with _ | ⟨x, rest⟩
  · exact ⟨List.Pairwise.nil, fun i y hy => by simp at hy⟩
  have hx := h.2 0 x rfl
  have hx' := hr x (by simp)
  simp only
  split
  · rename_i hd
    refine ⟨hpw, fun i y hy => ?_⟩
    have hm : y ∈ x :: rest := List.mem_of_getElem? hy
    have hi : i < (x :: rest).length := (List.getElem?_eq_some_iff.mp hy).1
    have hge : framesAhead (c + 1) x.due ≤ framesAhead (c + 1) y.due := by
      rcases List.mem_cons.mp hm with rfl | hm'
      · exact le_refl _
      · exact (List.pairwise_cons.mp hpw).1 y hm'
    have h1 : 1 ≤ framesAhead (c + 1) x.due := by
      have e := framesAhead_atOrAfter (c + 1) x.due (c + 1) (by omega) (by omega)
        (by simp [framesAhead]) (by simp [framesAhead])
      simp only [after, Bool.and_eq_true, bne_iff_ne] at hd
      rw [hd.1] at e
      have h0 : (0 : Int) ≤ framesAhead (c + 1) x.due := by simpa [framesAhead] using e.symm
      have hne : framesAhead (c + 1) x.due ≠ 0 := by
        intro h0
        have h4 : x.due - (c + 1) = 0 := by
          apply BitVec.eq_of_toInt_eq; rw [show (x.due - (c + 1)).toInt = 0 from h0]; rfl
        exact hd.2 (sub_eq_zero.mp h4)
      omega
    have := hr y hm
    have := h.2 i y hy
    exact ⟨by omega, by omega⟩
  · refine ⟨(List.pairwise_cons.mp hpw).2, fun i y hy => ?_⟩
    have hm : y ∈ rest := List.mem_of_getElem? hy
    have := hr y (by simp [hm])
    have := h.2 (i + 1) y (by simpa using hy)
    exact ⟨by push_cast at this; omega, by omega⟩

/-! ### Audiences -/

/-- A broadcast event barred from a port does not reach it (R59, R101). -/
theorem receives_bar (p : Port) (x : State) (e : RaisedEvent) (barred : List Port) (h : e.audience = .all barred) :
    receives x (e.bar p) p = false := by
  simp [receives, RaisedEvent.bar, h]

/-- What an operation hidden from port p raises goes to the other ports alone, when it raises broadcast events. -/
theorem hiddenFrom_raised (p : Port) (f : State → State) (s : State) :
    (s.hiddenFrom p f).raised = s.raised ++ (f { s with raised := [] }).raised.map (RaisedEvent.bar p) := rfl

end Sys2Proof.Machine
end

