-- ==== Sys2Proof/Laws/Lines.lean ====
section
/-! SUPPORT. The coded line of a transmitter (R24): the bits of a frame in the order sent, and the cells of the line. -/

namespace Sys2Proof.Machine

/-- The bits of bytes, eight for each: bit k is bit 7 - k mod 8 of byte k / 8. -/
theorem flatMap_byteBits_getElem (l : List Byte) :
    (l.flatMap byteBits).length = 8 * l.length
      ∧ ∀ k (h : k < (l.flatMap byteBits).length) (h' : k / 8 < l.length),
          (l.flatMap byteBits)[k] = l[k / 8].getLsbD (7 - k % 8) := by
  induction l with
  | nil => exact ⟨rfl, fun k h => absurd h (by simp)⟩
  | cons b bs ih =>
    have h8 : (byteBits b).length = 8 := rfl
    refine ⟨by simp only [List.flatMap_cons, List.length_append, ih.1, h8, List.length_cons]; omega, ?_⟩
    intro k h h'
    by_cases hk : k < 8
    · have h0 : k / 8 = 0 := by omega
      simp only [List.flatMap_cons, h0, List.getElem_cons_zero]
      rw [List.getElem_append_left (by rw [h8]; exact hk)]
      interval_cases k <;> rfl
    · have h1 : k / 8 = (k - 8) / 8 + 1 := by omega
      have h2 : k % 8 = (k - 8) % 8 := by omega
      have hl : k - 8 < (bs.flatMap byteBits).length := by
        simp only [List.flatMap_cons, List.length_append, h8] at h; omega
      have e := ih.2 (k - 8) hl (by rw [ih.1] at hl; omega)
      simp only [List.flatMap_cons, h1, h2, List.getElem_cons_succ]
      rw [List.getElem_append_right (by rw [h8]; omega)]
      exact e

/-- The cells of a line: one for each bit, each beginning with a change of level, and with a second one in the middle
exactly for a 1 (R24). -/
theorem lineCells_getElem (bs : List Bool) (level : Bool) :
    (lineCells level bs).length = bs.length
      ∧ ∀ k (h : k < (lineCells level bs).length) (h' : k < bs.length),
          (lineCells level bs)[k].1 = !(if k = 0 then level else ((lineCells level bs).getD (k - 1) (false, false)).2)
          ∧ ((lineCells level bs)[k].2 ≠ (lineCells level bs)[k].1 ↔ bs[k] = true) := by
  induction bs generalizing level with
  | nil => exact ⟨rfl, fun k h => absurd h (by simp [lineCells])⟩
  | cons b bs ih =>
    obtain ⟨ih1, ih2⟩ := ih (if b then !(!level) else !level)
    refine ⟨by simp only [lineCells, List.length_cons, ih1], ?_⟩
    intro k h h'
    rcases k with _ | k
    · cases b <;> cases level <;> simp [lineCells]
    · have hk : k < bs.length := by simpa using h'
      obtain ⟨e1, e2⟩ := ih2 k (by rw [ih1]; exact hk) hk
      refine ⟨?_, e2⟩
      rcases k with _ | k
      · exact e1
      · exact e1

/-- The cells of a frame in progress (R24). -/
theorem cells_of_line (x : Transmitter) (f : LinkFrame) (h : x.line = some f) :
    x.cells.length = 432
      ∧ ∀ k (hk : k < 432),
          (x.cells.getD k (false, false)).1
            = !(if k = 0 then x.level else (x.cells.getD (k - 1) (false, false)).2)
          ∧ ((x.cells.getD k (false, false)).2 ≠ (x.cells.getD k (false, false)).1
              ↔ (LinkFrame.byte f ⟨k / 8, by omega⟩).getLsbD (7 - k % 8) = true) := by
  have hc : x.cells = lineCells x.level (frameBits f) := by simp only [Transmitter.cells, h]
  obtain ⟨b1, b2⟩ := flatMap_byteBits_getElem f.cells
  obtain ⟨l1, l2⟩ := lineCells_getElem (frameBits f) x.level
  have hb : (frameBits f).length = 432 := by rw [frameBits, b1, f.size]
  rw [hc]
  refine ⟨by rw [l1, hb], fun k hk => ?_⟩
  obtain ⟨e1, e2⟩ := l2 k (by rw [l1, hb]; exact hk) (by rw [hb]; exact hk)
  have hg : (lineCells x.level (frameBits f)).getD k (false, false)
      = (lineCells x.level (frameBits f))[k]'(by rw [l1, hb]; exact hk) :=
    List.getD_eq_getElem _ _ _
  rw [hg]
  refine ⟨e1, e2.trans ?_⟩
  rw [show (frameBits f)[k]'(by rw [hb]; exact hk) = _ from b2 k (by rw [← frameBits, hb]; exact hk) (by rw [f.size]; omega)]
  rfl

/-- The level at the end: the steady level, or that of the last half cell (R24). -/
theorem endLevel_cases (x : Transmitter) : (x.line = none → x.endLevel = x.level)
      ∧ (x.line ≠ none → x.endLevel = (x.cells.getD 431 (false, false)).2) := by
  refine ⟨fun h => by simp [Transmitter.endLevel, Transmitter.cells, h], fun h => ?_⟩
  obtain ⟨f, hf⟩ := Option.ne_none_iff_exists'.mp h
  have hl := (cells_of_line x f hf).1
  have hlast : x.cells.getLast? = some (x.cells[431]'(by omega)) := by
    rw [List.getLast?_eq_getElem?, List.getElem?_eq_getElem (by omega)]
    simp only [hl]
  rw [Transmitter.endLevel, hlast, List.getD_eq_getElem _ _ (by omega)]

end Sys2Proof.Machine
end

