-- ==== Sys2Proof/Laws/Sources.lean ====
section
/-! SUPPORT. What a report of the receivers or the word-clock monitor makes of the candidate rows and the selector, and
what a side item makes of its assembler and of the mailboxes. -/

namespace Sys2Proof.Machine

/-! ### Reports to the selector -/

theorem sourcePresent_eq_rowPresent (s : State) (r : RowIx) :
    sourcePresent s (s.row r).source (s.row r).gradeLimit = s.rowPresent r := by
  unfold sourcePresent State.rowPresent
  cases (s.row r).source <;> rfl

theorem sourcePresent_congr {s u : State} (h1 : u.receivers = s.receivers) (h2 : u.selector = s.selector) (x : RefSource)
    (g : Grade) : sourcePresent u x g = sourcePresent s x g := by
  simp only [sourcePresent, h1, h2]

/-- A recomputation does not look at the transmitters. -/
theorem recompute_of_transmitters (s : State) (x : Tab 16 Transmitter) (y : Tab 16 (List TxNotice)) :
    State.recompute { s with transmitters := x, txNotices := y }
      = { s.recompute with transmitters := x, txNotices := y } := by
  have hd : ∀ why, State.dropRequest why { s with transmitters := x, txNotices := y }
      = { s.dropRequest why with transmitters := x, txNotices := y } := by
    intro why
    rcases h : s.selector.request with _ | q <;> (simp only [State.dropRequest, h]; try rfl)
  have hw : State.withdrawUnqualified { s with transmitters := x, txNotices := y }
      = { s.withdrawUnqualified with transmitters := x, txNotices := y } := by
    have hst : State.standing { s with transmitters := x, txNotices := y } = s.standing := rfl
    let bad (u : State) (q : Request) : Bool := decide (q.kind = .manual ∧ (u.row q.row).qualification ≠ .qualified)
    have hu : ∀ u : State, u.withdrawUnqualified = match u.standing with
        | some q => bif bad u q then u.dropRequest .notQualified else u
        | none => u := by
      intro u
      rcases h : u.standing with _ | q <;> simp only [State.withdrawUnqualified, h, bad, Bool.cond_decide]
    have hb : ∀ q, bad { s with transmitters := x, txNotices := y } q = bad s q := fun _ => rfl
    rw [hu, hu]
    simp only [hst, hb]
    rcases s.standing with _ | q
    · rfl
    · simp only
      cases bad s q
      · rfl
      · exact hd _
  have hm : ∀ (u : State) (k : Option RowIx), State.moveTo k { u with transmitters := x, txNotices := y }
      = { u.moveTo k with transmitters := x, txNotices := y } := by
    intro u k
    rcases h : u.selector.state.row with _ | r <;> rcases k with _ | k <;> simp only [State.moveTo, h] <;> try rfl
    by_cases hk : r = k <;> (simp only [hk, if_true, if_false]; try rfl)
  have ht : State.target { s.withdrawUnqualified with transmitters := x, txNotices := y } = s.withdrawUnqualified.target := rfl
  unfold State.recompute
  simp only [hw, ht]
  exact hm _ _

/-- What a report makes of the rows and the selector, whatever the event changed before it (R39, R41, R45). -/
theorem rowsFollow_reportSources (s u : State) (own : List RaisedEvent)
    (hsel : u.selector = { s.selector with monitor := u.selector.monitor })
    (hr : u.raised = s.raised ++ own) (ho : ∀ ev ∈ own, ev.source ≠ .selector) :
    RowsFollowTheirSources s u.reportSources := by
  have htab : u.selector.table = s.selector.table := by rw [hsel]
  have hwait : u.selector.restoreWait = s.selector.restoreWait := by rw [hsel]
  refine ⟨fun r => ?_, own, ho, ?_, ?_⟩
  · have hrow : u.row r = s.selector.table.get r := by rw [State.row, htab]
    have hw : u.reportSources.selector.table.get r
        = (s.selector.table.get r).follow (u.rowPresent r) s.selector.restoreWait u.now := by
      rw [State.reportSources_sel_table, State.followedTable, Tab.get_tabulate, hrow, hwait]
    have hp : sourcePresent u.reportSources (s.selector.table.get r).source (s.selector.table.get r).gradeLimit
        = u.rowPresent r := by
      rw [← sourcePresent_eq_rowPresent, hrow]
      unfold sourcePresent; split <;> simp
    simp only [hw, hp, State.reportSources_now]
    generalize u.rowPresent r = b
    rcases s.selector.table.get r with ⟨_, _, _, qu, _⟩
    cases qu <;> cases b <;> simp [CandidateRow.follow, CandidateRow.load]
  · intro h
    have hf : u.followedTable = u.selector.table := by rw [← State.reportSources_sel_table, h, htab]
    have hu : u.reportSources = u := by rw [State.reportSources, if_pos hf]
    have hs : ({ s.selector with table := u.selector.table, monitor := u.selector.monitor } : Selector) = u.selector := by
      rw [htab]; exact hsel.symm
    rw [hu, ← hr, hs]
  · intro h
    have hf : u.followedTable ≠ u.selector.table := by rw [← State.reportSources_sel_table, htab]; exact h
    have hu : u.reportSources = State.recompute { u with selector := { u.selector with table := u.followedTable } } := by
      rw [State.reportSources, if_neg hf]; rfl
    have hs : ({ s.selector with
        table := u.followedTable, monitor := u.selector.monitor } : Selector)
        = { u.selector with table := u.followedTable } := by
      conv_rhs => rw [hsel]
    have hm := State.reportSources_sel_monitor u
    have ht := State.reportSources_sel_table u
    rw [ht, hm, hs, ← hr]
    conv_lhs => rw [hu]
    congr 1
    rw [hu, State.recompute_frame]

/-- An event that no source reports leaves the rows as they are. -/
theorem rowsFollow_unchanged (s u : State) (own : List RaisedEvent)
    (hl : ∀ r, (s.row r).qualification = .absent ↔ s.rowPresent r = false)
    (hsel : u.selector = s.selector) (hp : ∀ x g, sourcePresent u x g = sourcePresent s x g)
    (hr : u.raised = s.raised ++ own) (ho : ∀ ev ∈ own, ev.source ≠ .selector) :
    RowsFollowTheirSources s u := by
  refine ⟨fun r => ?_, own, ho, ?_, ?_⟩
  · have h := hl r
    rw [← sourcePresent_eq_rowPresent] at h
    simp only [State.row] at h
    simp only [hp, hsel]
    generalize sourcePresent s _ _ = b at h ⊢
    cases b <;> simp_all
  · intro h
    rw [← hr, hsel]
    simp only [← hsel]
  · intro h; rw [hsel] at h; exact absurd rfl h

/-! ### Side items -/

/-- A message completed leaves the assembler IDLE (R132, R134). -/
theorem item_idle_of_complete (a : Assembler) (i : SideItem) (wire : List Byte) (h : (a.item i).2 = some wire) :
    (a.item i).1.buffer = none := by
  unfold Assembler.item at h ⊢
  split at h <;> rename_i hb
  · unfold Assembler.idleItem at h; split at h <;> cases h
  · unfold Assembler.assemblingItem Assembler.append at h ⊢
    repeat' split at h
    all_goals first | (cases h; done) | skip
    all_goals (repeat' split) <;> simp_all

/-- The entry that admits a message (R136, R139). -/
theorem admittingEntry_eq (s : State) (p : Port) (m : MessageRecord) :
    ((∃ e, (s.subscriptions.get m.link).get p = some e ∧ (s.sessions.get p).isOpen = true
        ∧ (s.sessions.get p).number = e.session ∧ e.low ≤ m.type ∧ m.type ≤ e.high) →
      admittingEntry s p m = some (s.sessions.get p).number)
    ∧ (¬ (∃ e, (s.subscriptions.get m.link).get p = some e ∧ (s.sessions.get p).isOpen = true
        ∧ (s.sessions.get p).number = e.session ∧ e.low ≤ m.type ∧ m.type ≤ e.high) →
      admittingEntry s p m = none) := by
  unfold admittingEntry
  rcases (s.subscriptions.get m.link).get p with _ | e
  · simp
  · simp only [Option.some.injEq, exists_eq_left', openWith_iff]
    refine ⟨fun h => ?_, fun h => ?_⟩
    · rw [if_pos ⟨⟨h.1, h.2.1⟩, h.2.2⟩, h.2.1]
    · rw [if_neg (fun hc => h ⟨hc.1.1, hc.1.2, hc.2⟩)]

/-- The MAILBOX_OVERFLOW events for port p at a delivery (R141). -/
theorem overflowEvents_deliver (s : State) (m : MessageRecord) (p : Port) :
    overflowEvents p (s.deliver m) = overflowEvents p s ++ (overflowEvent s m p).toList := by
  have hs : ∀ q e, overflowEvent s m q = some e → ∃ k c, e = ⟨.messageUnit, .only q k, .mailboxOverflow c⟩ := by
    intro q e h
    unfold overflowEvent at h; simp only at h
    split at h
    · cases h
    · split at h
      · cases h; exact ⟨_, _, rfl⟩
      · cases h
  unfold overflowEvents State.deliver
  simp only [List.filter_append]
  congr 1
  have h4 : List.finRange 4 = [0, 1, 2, 3] := rfl
  rw [h4]
  have hq : ∀ q : Port, ((overflowEvent s m q).toList.filter (isOverflowOf p)) = if q = p then (overflowEvent s m q).toList else [] := by
    intro q
    rcases h : overflowEvent s m q with _ | e
    · simp
    · obtain ⟨k, c, rfl⟩ := hs q e h
      by_cases hqp : q = p <;> simp [isOverflowOf, hqp]
  have hf : ∀ l : List Port, l.filterMap (overflowEvent s m) = l.flatMap fun q => (overflowEvent s m q).toList := by
    intro l; induction l with
    | nil => rfl
    | cons a l ih => rcases h : overflowEvent s m a <;> simp [h, ih]
  rw [hf]
  simp only [List.flatMap_cons, List.flatMap_nil, List.filter_append, hq, List.append_nil]
  fin_cases p <;> simp

/-- A side item does what Safety.lean's words say of it. -/
theorem sideItem_reaches (n : Link) (i : SideItem) (s : State) : SideItemReaches n i s (s.sideItem n i) := by
  have hget : ∀ (u : State) a, (u.onAssembler n fun _ => a).assemblers.get n = a := by
    intro u a; simp [State.onAssembler, Tab.modify]
  refine ⟨fun h => ?_, fun wire h => ?_⟩
  · simp only [State.sideItem, h]
    exact ⟨hget _ _, rfl, fun p => rfl⟩
  have hb := item_idle_of_complete _ _ wire h
  simp only [State.sideItem, h, State.completeMessage]
  by_cases hg : goodMessage wire = true
  · have hg' : (wire.getD 1 0).toNat + 3 = wire.length ∧ crc8 wire.dropLast = wire.getLastD 0 := by
      simpa [goodMessage] using hg
    simp only [hg, if_true]
    refine ⟨?_, fun hn => absurd hg' hn, fun _ => ⟨hget _ _, fun p => ?_⟩⟩
    · exact (congrArg _ (hget _ _)).trans hb
    have ha := admittingEntry_eq (s.onAssembler n fun _ => ((s.assemblers.get n).item i).1) p
      (messageRecord n s.frame wire)
    have hm : (((s.onAssembler n fun _ => ((s.assemblers.get n).item i).1).deliver
        (messageRecord n s.frame wire)).mailboxes.get p)
        = mailboxAfter (s.onAssembler n fun _ => ((s.assemblers.get n).item i).1) (messageRecord n s.frame wire) p := by
      simp [State.deliver]
    have ho := overflowEvents_deliver (s.onAssembler n fun _ => ((s.assemblers.get n).item i).1)
      (messageRecord n s.frame wire) p
    change let box := s.mailboxes.get p; _
    have he : (s.onAssembler n fun _ => ((s.assemblers.get n).item i).1).mailboxes = s.mailboxes := rfl
    have hs2 : (s.onAssembler n fun _ => ((s.assemblers.get n).item i).1).sessions = s.sessions := rfl
    have hs3 : (s.onAssembler n fun _ => ((s.assemblers.get n).item i).1).subscriptions = s.subscriptions := rfl
    have hov : overflowEvents p (s.onAssembler n fun _ => ((s.assemblers.get n).item i).1) = overflowEvents p s := rfl
    have hfr : (s.onAssembler n fun _ => ((s.assemblers.get n).item i).1).frame = s.frame := rfl
    rw [hs2, hs3] at ha
    rw [hov] at ho
    rw [hfr]
    rw [hm, ho]
    simp only [mailboxAfter, overflowEvent, he]
    by_cases had : ∃ e, (s.subscriptions.get n).get p = some e ∧ (s.sessions.get p).isOpen = true
        ∧ (s.sessions.get p).number = e.session ∧ e.low ≤ wire.getD 0 0 ∧ wire.getD 0 0 ≤ e.high
    · rw [ha.1 had]
      simp only [Mailbox.place, Mailbox.isFullFor, Mailbox.empty, Config.mailboxMax]
      refine ⟨fun h => absurd had h, ?_, ?_, ?_, ?_, ?_, ?_⟩
      · intro _ h; simp [h]; rfl
      · intro _ h h2; simp [h, h2]; rfl
      · intro _ h h2 h3; simp [h, h2, h3]; rfl
      · rintro ⟨_, h2, h3⟩
        have h : (s.mailboxes.get p).records ≠ [] := by intro h; simp [h] at h3
        simp [h, h2, Nat.not_lt.mpr h3]
      · rintro ⟨_, h2, h3⟩ h4
        simp [h2, h3, h4]
      · rintro h
        by_cases h1 : (s.mailboxes.get p).session = some (s.sessions.get p).number
        · by_cases h2 : 16 ≤ (s.mailboxes.get p).records.length
          · rcases h with h | h
            · exact absurd ⟨had, h1, h2⟩ h
            · simp [h]
          · simp [h2]
        · simp [h1]
    · rw [ha.2 had]
      refine ⟨fun _ => rfl, fun h => absurd h had, fun h => absurd h had, fun h => absurd h had,
        fun h => absurd h.1 had, fun h => absurd h.1 had, fun _ => by simp⟩
  · have hg' : ¬ ((wire.getD 1 0).toNat + 3 = wire.length ∧ crc8 wire.dropLast = wire.getLastD 0) := by
      simpa [goodMessage] using hg
    rw [if_neg hg]
    refine ⟨?_, fun _ => ⟨rfl, ?_, fun p => rfl⟩, fun hn => absurd hn hg'⟩
    · simp [State.onAssembler, Tab.modify]; exact hb
    · simp [State.onAssembler, Tab.modify]

theorem SideItemReaches.congr {n : Link} {i : SideItem} {s s' t t' : State} (h : SideItemReaches n i s t)
    (h1 : s'.assemblers = s.assemblers) (h2 : s'.mailboxes = s.mailboxes) (h3 : s'.sessions = s.sessions)
    (h4 : s'.subscriptions = s.subscriptions) (h5 : s'.timing = s.timing)
    (h6 : ∀ p, overflowEvents p s' = overflowEvents p s) (h7 : t'.assemblers = t.assemblers)
    (h8 : t'.mailboxes = t.mailboxes) (h9 : ∀ p, overflowEvents p t' = overflowEvents p t) :
    SideItemReaches n i s' t' := by
  unfold SideItemReaches at h ⊢
  simp only [h1, h2, h3, h4, h5, h6, h7, h8, h9]
  exact h

/-! ### What is raised -/

theorem overflowEvents_add (p : Port) {s t : State} (l : List RaisedEvent) (h : t.raised = s.raised ++ l)
    (hl : ∀ e ∈ l, ∃ b, e.audience = .all b) : overflowEvents p t = overflowEvents p s := by
  unfold overflowEvents
  have hn : l.filter (isOverflowOf p) = [] := by
    refine List.filter_eq_nil_iff.mpr fun e he => ?_
    obtain ⟨b, hb⟩ := hl e he
    simp [isOverflowOf, hb]
  rw [h, List.filter_append, hn, List.append_nil]

theorem raised_windowFrame (n : Link) (bad : Bool) (s : State) : ∃ l, (s.windowFrame n bad).raised = s.raised ++ l
    ∧ ∀ e ∈ l, e.source = .receiver n ∧ e.audience = s.everyone := by
  unfold State.windowFrame State.raiseLinkState
  simp only; split
  · exact ⟨[], (List.append_nil _).symm, fun e he => absurd he List.not_mem_nil⟩
  · exact ⟨_, rfl, fun e he => by rcases List.mem_singleton.mp he with rfl; exact ⟨rfl, rfl⟩⟩

theorem raised_appendFrame (n : Link) (f : Samples) (s : State) : ∃ l, (s.appendFrame n f).raised = s.raised ++ l
    ∧ ∀ e ∈ l, e.source = .store n ∧ e.audience = s.everyone := by
  unfold State.appendFrame
  simp only; split
  · exact ⟨_, rfl, fun e he => by rcases List.mem_singleton.mp he with rfl; exact ⟨rfl, rfl⟩⟩
  · exact ⟨[], (List.append_nil _).symm, fun e he => absurd he List.not_mem_nil⟩

theorem raised_sideItem (n : Link) (i : SideItem) (s : State) : ∃ l, (s.sideItem n i).raised = s.raised ++ l
    ∧ ∀ e ∈ l, e.source = .messageUnit := by
  unfold State.sideItem State.completeMessage
  simp only; repeat' split
  · exact ⟨[], (List.append_nil _).symm, fun e he => absurd he List.not_mem_nil⟩
  · refine ⟨_, rfl, fun e he => ?_⟩
    simp only [List.mem_filterMap, overflowEvent] at he
    obtain ⟨q, _, hq⟩ := he
    split at hq
    · cases hq
    · split at hq <;> cases hq; rfl
  · exact ⟨[], (List.append_nil _).symm, fun e he => absurd he List.not_mem_nil⟩

theorem raised_reportSources_everyone (s : State) : ∃ l, s.reportSources.raised = s.raised ++ l
    ∧ ∀ e ∈ l, e.source = .selector ∧ e.audience = s.everyone := by
  unfold State.reportSources
  split
  · exact ⟨[], (List.append_nil _).symm, fun e he => absurd he List.not_mem_nil⟩
  · exact State.raised_recompute_everyone _

theorem everyone_all (s : State) : ∃ b, s.everyone = .all b := ⟨_, rfl⟩

theorem overflowEvents_windowFrame (p : Port) (n : Link) (bad : Bool) (s : State) :
    overflowEvents p (s.windowFrame n bad) = overflowEvents p s := by
  obtain ⟨l, h, hl⟩ := raised_windowFrame n bad s
  exact overflowEvents_add p l h fun e he => by rw [(hl e he).2]; exact everyone_all s

theorem overflowEvents_appendFrame (p : Port) (n : Link) (f : Samples) (s : State) :
    overflowEvents p (s.appendFrame n f) = overflowEvents p s := by
  obtain ⟨l, h, hl⟩ := raised_appendFrame n f s
  exact overflowEvents_add p l h fun e he => by rw [(hl e he).2]; exact everyone_all s

theorem overflowEvents_reportSources (p : Port) (s : State) : overflowEvents p s.reportSources = overflowEvents p s := by
  obtain ⟨l, h, hl⟩ := raised_reportSources_everyone s
  exact overflowEvents_add p l h fun e he => by rw [(hl e he).2]; exact everyone_all s

/-- A good frame taken hands its side item on (R13). -/
theorem sideItemReaches_takeGoodFrame (n : Link) (f : LinkFrame) (s : State) :
    SideItemReaches n (goodItem f) s (s.takeGoodFrame n f).reportSources := by
  refine (sideItem_reaches n (goodItem f) ((s.onReceiver n (Receiver.takeGood f s.frame)).windowFrame n false)).congr
    ?_ ?_ ?_ ?_ ?_ ?_ ?_ ?_ ?_
  · simp
  · simp
  · simp
  · simp
  · simp
  · intro p; rw [overflowEvents_windowFrame]; rfl
  · simp only [State.reportSources_assemblers, State.takeGoodFrame, State.appendFrame_assemblers]
  · simp only [State.reportSources_mailboxes, State.takeGoodFrame, State.appendFrame_mailboxes]
  · intro p; rw [overflowEvents_reportSources, State.takeGoodFrame, overflowEvents_appendFrame]

/-- What a frame taken raises, before the selector is told of it. -/
theorem raised_takeGoodFrame (n : Link) (f : LinkFrame) (s : State) : ∃ l, (s.takeGoodFrame n f).raised = s.raised ++ l
    ∧ ∀ e ∈ l, e.source ≠ .selector := by
  obtain ⟨a, ha, ha'⟩ := raised_windowFrame n false (s.onReceiver n (Receiver.takeGood f s.frame))
  obtain ⟨b, hb, hb'⟩ := raised_sideItem n (goodItem f) ((s.onReceiver n (Receiver.takeGood f s.frame)).windowFrame n false)
  obtain ⟨c, hc, hc'⟩ := raised_appendFrame n (LinkFrame.samples f)
    (((s.onReceiver n (Receiver.takeGood f s.frame)).windowFrame n false).sideItem n (goodItem f))
  refine ⟨a ++ (b ++ c), ?_, ?_⟩
  · rw [State.takeGoodFrame, hc, hb, ha]; simp [State.onReceiver]
  · intro e he
    rcases List.mem_append.mp he with h | h
    · rw [(ha' e h).1]; simp
    · rcases List.mem_append.mp h with h | h
      · rw [hb' e h]; simp
      · rw [(hc' e h).1]; simp

theorem raised_takeConcealed (n : Link) (f : Receiver → Receiver) (s : State) :
    ∃ l, (s.takeConcealed n f).raised = s.raised ++ l ∧ ∀ e ∈ l, e.source ≠ .selector := by
  obtain ⟨a, ha, ha'⟩ := raised_windowFrame n true (s.onReceiver n f)
  obtain ⟨b, hb, hb'⟩ := raised_sideItem n .damaged ((s.onReceiver n f).windowFrame n true)
  obtain ⟨c, hc, hc'⟩ := raised_appendFrame n (s.receivers.get n).concealed
    (((s.onReceiver n f).windowFrame n true).sideItem n .damaged)
  refine ⟨a ++ (b ++ c), ?_, ?_⟩
  · rw [State.takeConcealed, hc, hb, ha]; simp [State.onReceiver]
  · intro e he
    rcases List.mem_append.mp he with h | h
    · rw [(ha' e h).1]; simp
    · rcases List.mem_append.mp h with h | h
      · rw [hb' e h]; simp
      · rw [(hc' e h).1]; simp

theorem raised_leaveTo (n : Link) (f : Receiver → Receiver) (s : State) :
    ∃ l, (s.leaveTo n f).raised = s.raised ++ l ∧ ∀ e ∈ l, e.source ≠ .selector := by
  have h1 : ∃ l, ((s.onReceiver n f).raiseLinkState n).raised = s.raised ++ l ∧ ∀ e ∈ l, e.source ≠ .selector :=
    ⟨_, rfl, fun e he => by rcases List.mem_singleton.mp he with rfl; simp⟩
  unfold State.leaveTo
  simp only; split
  · rw [sideItem_leaving]; exact h1
  · exact h1

end Sys2Proof.Machine
end

