-- ==== Sys2Proof/WellFormed.lean ====
section
/-! DEFINITION. Which commands a sender can send. The operands' types hold all limits but one: a command frame
carries at most 60 parameter bytes (R155), and none for the commands of fixed length is required here, since a
wrong length is a command the port answers BAD_ARG (R169). -/

namespace Sys2Proof

/-- A command frame can carry these parameters (R155: L is 0 to 60). -/
def paramsFit (ps : List Byte) : Bool := ps.length ≤ Config.paramMax

/-- The well-formed commands. -/
def WellFormed : Instr → Bool
  | .deviceReset _ | .outputFrameBoundary | .wclkOutFall => true
  | .qualificationStart _ _ | .qualificationAbandoned _ _ | .qualificationComplete _ => true
  | .lossOfSignal _ _ | .alignmentPatternFound _ _ _ => true
  | .confirmFrameArrival _ _ _ _ | .frameArrival _ _ _ _ => true
  | .wclkRisingEdge _ | .wclkMissingInterval => true
  | .restoreTimerExpiry _ | .holdoverTimerExpiry | .leaseExpiry _ => true
  | .chmSessionEndNotice _ | .rslSessionEndNotice _ | .msuSessionEndNotice _ | .evuSessionEndNotice _ => true
  | .completionNotice _ | .discardNotice _ | .disableNotice _ | .raisedEventQueuing _ => true
  | .chipSelectFall _ _ | .chipSelectRise _ _ _ _ | .heldFrameTaken _ => true
  | .softReset (.command _ _ ps _) => paramsFit ps
  | .softReset (.reach _) => true
  | .openSession _ _ ps | .ping _ _ ps | .close _ _ ps | .claim _ _ ps | .release _ _ ps => paramsFit ps
  | .queryOwner _ _ ps | .linkConfig _ _ ps | .linkStatus _ _ ps | .readFrame _ _ ps => paramsFit ps
  | .refTable _ _ ps | .refLockout _ _ ps | .refMode _ _ ps | .refForce _ _ ps => paramsFit ps
  | .refManual _ _ ps | .refClear _ _ ps | .refStatus _ _ ps | .wclkOut _ _ ps => paramsFit ps
  | .readMap _ _ ps | .stage _ _ ps | .unstage _ _ ps | .discard _ _ ps | .stagingRead _ _ ps => paramsFit ps
  | .commit _ _ ps | .cancel _ _ ps | .commitList _ _ ps | .subscribe _ _ ps => paramsFit ps
  | .unsubscribe _ _ ps | .fetch _ _ ps | .send _ _ ps | .setEventMask _ _ ps => paramsFit ps
  | .countersRead _ _ ps | .countersClear _ _ ps => paramsFit ps

end Sys2Proof
end

