-- ==== Sys2Proof/Tests/Slice0.lean ====
section
/-! SUPPORT. Checks of this model on small states: the ill-formed terms WellFormed refuses, words and frames written
out from the spec, one step of every command, and for every statement of Certificates/Slice0/Obligations.lean states
and operands that meet its hypotheses together. -/

namespace Sys2Proof.Tests

open Sys2Proof.Machine

set_option Elab.async false

/-! ### States and operands -/

/-- Straps that give port n precedence n. -/
def straps : Tab 4 Strap := Tab.tabulate fun p => ⟨decide (2 ≤ p.val), decide (p.val % 2 = 1)⟩

/-- After device reset, port n of precedence n. -/
def base : State := State.initial straps

/-- Port p's session open with number 1. -/
def openOn (p : Port) (s : State) : State :=
  s.onSession p fun r => { r with isOpen := true, number := 1, lease := some 3932160000 }

/-- Sessions on ports 1, 2 and 3; port 0 is CLOSED, and port 3 holds the configuration right. -/
def open123 : State := openOn 1 (openOn 2 (openOn 3 base))

/-- The state a command leaves. -/
def result (i : Instr) (s : State) : State :=
  match exec i s with
  | .next t => t
  | _ => s

/-- The last response of port p after a command. -/
def answer (i : Instr) (p : Port) (s : State) : Option Response := ((result i s).ports.get p).responses.getLast?

/-- The bits of bytes as a controller clocks them in. -/
def bits (bs : List Byte) : List Bool := bs.flatMap byteBits

/-- A frame of grade 0 with the idle side field and sixteen equal samples. -/
def plainFrame (v : Sample) : LinkFrame := buildFrame 0 idleField (Tab.fill v)

/-- A frame with a wrong CRC-8, and one without the alignment word. -/
def damagedFrame : LinkFrame := (plainFrame 5).put 53 0
def misalignedFrame : LinkFrame := (plainFrame 5).put 0 0

/-- Receiver n in a state, at frame position 7. -/
def rxAt (n : Link) (st : RxState) (s : State) : State :=
  s.onReceiver n fun r => { r with state := st, position := some 7 }

/-- Receiver n IN_FRAME with a last good frame, its store RUNNING with one frame. -/
def inFrame (n : Link) (s : State) : State :=
  ((rxAt n .inFrame s).onReceiver n fun r =>
      { r with lastGood := some ((LinkFrame.record (plainFrame 5) 3)), grade := 0 }).onStore n fun e =>
    { e with state := .running, frames := [Tab.fill 9] }

/-- Row r with a LINK 0 source, QUALIFIED. -/
def rowOn (r : RowIx) (x : RefSource) (s : State) : State :=
  s.onRow r fun _ => ⟨x, 3, false, .qualified, none⟩

/-- The selector in a state. -/
def selIn (st : SelectorState) (s : State) : State := s.onSelector fun l => { l with state := st, lastRow := st.row }

/-- A request standing in the slot. -/
def asked (k : RequestKind) (r : RowIx) (p : Port) (s : State) : State :=
  s.onSelector fun l => { l with request := some ⟨k, r, p, 1⟩ }

/-- Destination d owned by port p in its session 1. -/
def ownedBy (p : Port) (d : Dest) (s : State) : State := { s with claims := s.claims.put d (some ⟨p, 1⟩) }

/-- A record that sets the mute of destination d, and a set of port p that carries records. -/
def muteRecord (d : Dest) : ChangeRecord := ⟨d, none, some true, none⟩
def setOf (p : Port) (due : FrameNo) (rs : List ChangeRecord) : ChangeSet := ⟨⟨p, 1⟩, due, 1, rs⟩

/-- Transmitter n in a state with a queue. -/
def txAt (n : Link) (t : Transmitter) (q : List QueuedMessage) (s : State) : State :=
  { s.onTransmitter n fun _ => t with txQueues := s.txQueues.put n q }

/-- A message of port 1 with a payload of two bytes: five wire bytes (R129). -/
def message : QueuedMessage := ⟨1, 1, 100, 0x40, [1, 2], wireBytes 0x40 [1, 2]⟩

/-- That message in flight. -/
def flying (next : Nat) (last : Bool) : InFlight := ⟨1, 1, 100, message.wire, next, last⟩

/-- Responses waiting on port p. -/
def waiting (p : Port) (k : Nat) (s : State) : State :=
  s.onPort p fun c => { c with responses := List.replicate k ⟨0, ⟨.ok, []⟩⟩ }

/-- A transaction of port p that carries an item, nothing clocked yet. -/
def during (p : Port) (i : OutItem) (s : State) : State :=
  s.onPort p fun c => { c with transaction := some ⟨i, i.frame, false, ⟨[], 0, true⟩⟩ }

/-- Event records of port p's present session 1. -/
def withEvents (p : Port) (q : List EventRecord) (s : State) : State := { s with events := s.events.put p q }

/-- A record of the present session, and one of an ended session. -/
def slipEvent : EventRecord := ⟨.slip 3 .dropped, 100, 1⟩
def staleEvent : EventRecord := ⟨.slip 3 .dropped, 100, 0⟩

/-- A soft reset in progress that has still to reach every block. -/
def resetting (s : State) : State := { s with resetToReach := ResetBlock.all }

/-! ### Well-formed commands -/

theorem test_wellFormed_sixtyParameterBytes : WellFormed (.ping 0 0 (List.replicate 60 0)) = true := by decide

/-- A frame carries at most 60 parameter bytes (R155): 61 are refused for each command of a controller. -/
theorem test_illFormed_sixtyOneParameterBytes :
    ∀ c : Cmd, WellFormed (c.instr 0 0 (List.replicate 61 0)) = false := by
  intro c; cases c <;> decide +kernel

theorem test_wellFormed_pinEvent : WellFormed .outputFrameBoundary = true := by decide

/-- The table gives no row bits, so no word spells a command. -/
theorem test_noWordSpellsACommand : decodeTableWord 0 0 = none := rfl

/-! ### Words written out from the spec -/

/-- CRC-8 with polynomial x^8 + x^2 + x + 1 (R2), on the digits 1 to 9. -/
theorem test_crc8_check : crc8 [0x31, 0x32, 0x33, 0x34, 0x35, 0x36, 0x37, 0x38, 0x39] = 0xF4 := by decide +kernel

/-- The IDLE frame of R156. -/
theorem test_idleFrame : OutItem.idle.frame = [0x5C, 0x00, 0x00, 0x00, 0x00, 0x6C] := by decide +kernel

/-- The command frame of PING with tag $31 (R155). -/
theorem test_commandFrame : commandFrame 0x31 0x02 [] = [0xA6, 0x31, 0x02, 0x00, 0x2B] := by decide +kernel

/-- A link frame written byte by byte from R1: grade 2, side state START, slot 0 $123456, slot 15 $800000, side bytes
$40 and $02. -/
def writtenFrame : LinkFrame :=
  ⟨[0xD2, 0x4B, 0x0A, 0x12, 0x34, 0x56] ++ List.replicate 42 0 ++ [0x80, 0x00, 0x00, 0x40, 0x02, 0x1E], rfl⟩

theorem test_writtenFrame_isRead :
    LinkFrame.aligned writtenFrame = true ∧ LinkFrame.crcGood writtenFrame = true ∧ LinkFrame.grade writtenFrame = 2
      ∧ goodItem writtenFrame = .code .start 0x40 0x02 ∧ LinkFrame.slot writtenFrame 0 = 0x123456
      ∧ LinkFrame.slot writtenFrame 15 = 0x800000 := by decide +kernel

theorem test_writtenFrame_isBuilt :
    buildFrame 2 ⟨1, 0x40, 0x02⟩ (((Tab.fill 0).put 0 0x123456).put 15 0x800000) = writtenFrame := by decide +kernel

/-- The wire bytes of a message of type $40 (R129). -/
theorem test_wireBytes : wireBytes 0x40 [0x01, 0x02] = [0x40, 0x02, 0x01, 0x02, 0x56] := by decide +kernel

/-- The line coding of R24: the level changes at the start of each cell, and in the middle of a 1. -/
theorem test_lineCells : lineCells false [true, false, true] = [(true, false), (true, true), (false, true)] := by decide

/-- Bits are clocked most significant first, and bits after the last whole byte are discarded (R153). -/
theorem test_wholeBytes : wholeBytes (bits [0xA6, 0x31] ++ [true, true]) = [0xA6, 0x31] := by decide

/-- SDO carries byte $5C of an IDLE frame first, most significant bit first, and $00 after the frame (R153, R156). -/
theorem test_sdo :
    let s := during 1 .idle open123
    (List.range 8).map (s.sdo 1 56) = [false, true, false, true, true, true, false, false].map some
      ∧ (List.range 8).map (fun k => s.sdo 1 56 (48 + k)) = List.replicate 8 (some false) ∧ s.sdo 2 56 0 = none := by
  decide +kernel

/-- A line that idles low: the first bits of $D2 are 1 1 0 1, so the line rises and falls twice, rises for the 0 and falls
for the next 1 (R24). -/
theorem test_lineLevel :
    let s := txAt 4 ⟨.active, .idle, some (plainFrame 0), false⟩ [] base
    (List.range 8).map (fun k => s.lineLevel 4 (k * 819200 / 864 + 1))
        = [true, false, true, false, true, true, false, true]
      ∧ s.lineLevel 5 400000 = false := by decide +kernel

/-- Frame numbers are compared modulo 2^32. -/
theorem test_frameOrder :
    atOrAfter 0 0xFFFFFFFF = true ∧ atOrAfter 0xFFFFFFFF 0 = false ∧ after 5 5 = false ∧ atOrAfter 5 5 = true := by decide

/-! ### One step of each command -/

theorem test_deviceReset :
    (Tab.map Session.precedence (result (.deviceReset straps) State.reset).sessions).cells = [0, 1, 2, 3] := by
  decide +kernel

/-- Step 14 of the sequence of 10.1: a due set of two fades is applied at the boundary. -/
theorem test_outputFrameBoundary_take :
    let s := { ownedBy 1 65 (ownedBy 1 64 open123) with
      commitQueue := [setOf 1 1 [⟨64, some (.slot 5 0, 96), none, none⟩, ⟨65, some (.slot 5 1, 48), none, none⟩]] }
    let t := result .outputFrameBoundary s
    t.commitQueue = [] ∧ t.activeMap.get 64 = ⟨.slot 5 0, false, false, some ⟨.silent, 96, 1⟩, 0⟩
      ∧ (t.activeMap.get 65).fade = some ⟨.silent, 48, 1⟩
      ∧ t.raised = [⟨.changeManager, .only 1 1, .commitTaken ⟨1, 1⟩ 1 2 0⟩] := by
  decide +kernel

/-- A routed slot goes out in the frame the boundary begins. -/
theorem test_outputFrameBoundary_line :
    let s := { txAt 0 ⟨.waiting, .idle, none, false⟩ [] (inFrame 2 base) with
      activeMap := base.activeMap.put 1 ⟨.slot 2 0, false, true, none, 0⟩ }
    let t := result .outputFrameBoundary s
    ((t.transmitters.get 0).line.map fun f => (LinkFrame.slot f 1, LinkFrame.grade f)) = some (-9, 7)
      ∧ t.timing.frameCounter = 1 := by
  decide +kernel

theorem test_wclkOutFall :
    (result .wclkOutFall (base.onTiming fun t => { t with wclkPin := true })).timing.wclkPin = false := by decide +kernel

theorem test_qualificationStart :
    ((result (.qualificationStart 4 10) (rxAt 4 .noSignal base)).receivers.get 4).qualifying = some 10 := by decide +kernel

theorem test_qualificationAbandoned :
    ((result (.qualificationAbandoned 4 10)
      ((rxAt 4 .noSignal base).onReceiver 4 fun r => { r with qualifying := some 0 })).receivers.get 4).qualifying = none := by
  decide +kernel

theorem test_qualificationComplete :
    let t := result (.qualificationComplete 4) ((rxAt 4 .noSignal base).onReceiver 4 fun r => { r with qualifying := some 5 })
    (t.receivers.get 4).state = .search ∧ t.now = 9830405 ∧ t.raised = [⟨.receiver 4, .all [], .linkState 4 .search false⟩] := by
  decide +kernel

theorem test_lossOfSignal :
    let t := result (.lossOfSignal 2 1) (inFrame 2 base)
    (t.receivers.get 2).state = .noSignal ∧ (t.receivers.get 2).counters.lossOfSignal = 1
      ∧ (t.stores.get 2).state = .idle := by decide +kernel

theorem test_alignmentPatternFound :
    ((result (.alignmentPatternFound 2 431 1) (rxAt 2 .search base)).receivers.get 2).position = some 431 := by
  decide +kernel

theorem test_confirmFrameArrival :
    let s := (rxAt 2 .confirm base).onReceiver 2 fun r => { r with confirmCount := 2 }
    let t := result (.confirmFrameArrival 2 7 (plainFrame 5) 1) s
    (t.receivers.get 2).state = .inFrame ∧ (t.stores.get 2).frames = [Tab.fill 5] := by decide +kernel

theorem test_frameArrival_damaged :
    let t := result (.frameArrival 2 7 damagedFrame 1) (inFrame 2 base)
    (t.stores.get 2).frames = [Tab.fill 9, Tab.fill 5] ∧ (t.receivers.get 2).counters.damaged = 1 := by decide +kernel

theorem test_wclkRisingEdge :
    let s := base.onSelector fun l => { l with monitor := { l.monitor with goodRun := 31, timedFrom := some 0 } }
    (result (.wclkRisingEdge 819200) s).selector.monitor.present = true := by decide +kernel

theorem test_wclkMissingInterval :
    let s := base.onSelector fun l => { l with monitor := ⟨true, 0, 3, some 0, ⟨some 0, none⟩⟩ }
    let t := result .wclkMissingInterval s
    t.selector.monitor.present = false ∧ t.now = 823296 := by decide +kernel

theorem test_restoreTimerExpiry :
    let s := (inFrame 2 base).onRow 0 fun _ => ⟨.link 2, 3, false, .waiting, some 50⟩
    (result (.restoreTimerExpiry 0) s).selector.state = .locking 0 := by decide +kernel

theorem test_holdoverTimerExpiry :
    let s := base.onSelector fun l => { l with state := .holdover, lastRow := some 0, holdoverTimer := some 50, holdoverSince := some 0 }
    (result .holdoverTimerExpiry s).selector.state = .freeRun := by decide +kernel

theorem test_leaseExpiry :
    let t := result (.leaseExpiry 1) (ownedBy 1 64 open123)
    (t.sessions.get 1).endReason = .lapsed ∧ t.claims.get 64 = none
      ∧ t.raised = [⟨.sessionUnit, .all [], .peer .lapsed 1⟩] ∧ t.chmNotices = [⟨1, 1, .lapsed⟩] := by decide +kernel

theorem test_chmSessionEndNotice :
    let s := { base with
      chmNotices := [⟨1, 1, .closed⟩], commitQueue := [setOf 1 5 [muteRecord 3], setOf 2 6 [muteRecord 4]] }
    (result (.chmSessionEndNotice 1) s).commitQueue = [setOf 2 6 [muteRecord 4]] := by decide +kernel

theorem test_rslSessionEndNotice :
    let t := result (.rslSessionEndNotice 1) { asked .force 0 1 base with rslNotices := [⟨1, 1, .closed⟩] }
    t.selector.request = none ∧ t.raised = [⟨.selector, .all [1], .refRequestDropped .force 0 1 .ownerEnded⟩] := by
  decide +kernel

/-- The row of an ended FORCE is left at its notice: the owner's new session receives the REF_STATE, not the OWNER_ENDED
(R59, R183, log 30). -/
theorem test_rslSessionEndNotice_newSession :
    let s := result (.openSession 3 7 [0x01, 0xF4, 0]) (result (.close 3 7 [])
      (selIn (.locked 0) (asked .force 0 3 (rowOn 1 .wclk open123))))
    let t := result (.rslSessionEndNotice 3) { s with raised := [] }
    t.selector.request = none
      ∧ t.raised.map (fun e => (e.data, receives t e 3))
        = [(.refRequestDropped .force 0 3 .ownerEnded, false), (.refState (.locking 1) (some 1) .selected, true)] := by
  decide +kernel

theorem test_msuSessionEndNotice :
    let s := { txAt 4 ⟨.active, .idle, none, false⟩ [message] base with msuNotices := [⟨1, 1, .closed⟩] }
    (result (.msuSessionEndNotice 1) s).txQueues.get 4 = [] := by decide +kernel

theorem test_evuSessionEndNotice :
    let s := { withEvents 1 [slipEvent, staleEvent] base with evuNotices := [⟨1, 1, .closed⟩] }
    (result (.evuSessionEndNotice 1) s).events.get 1 = [staleEvent] := by decide +kernel

theorem test_completionNotice :
    (result (.completionNotice 4) { open123 with txNotices := base.txNotices.put 4 [.completion 1 1 100] }).raised
      = [⟨.messageUnit, .only 1 1, .msgSent 100⟩] := by decide +kernel

theorem test_discardNotice :
    (result (.discardNotice 4) { open123 with txNotices := base.txNotices.put 4 [.discard 1 1 100] }).raised
      = [⟨.messageUnit, .only 1 1, .msgDiscarded 100⟩] := by decide +kernel

theorem test_disableNotice :
    let s := { txAt 4 ⟨.off, .idle, none, false⟩ [message] open123 with txNotices := base.txNotices.put 4 [.disable] }
    let t := result (.disableNotice 4) s
    t.txQueues.get 4 = [] ∧ t.raised = [⟨.messageUnit, .only 1 1, .msgDiscarded 100⟩] := by decide +kernel

/-- The worked case of chapter 9: a full queue, 31 records, makes an EVENTS_LOST record, which then counts. -/
theorem test_raisedEventQueuing :
    let s := { withEvents 1 (List.replicate 31 slipEvent) open123 with raised := [⟨.selector, .all [], .refState .freeRun none .holdoverExpired⟩] }
    ((result (.raisedEventQueuing .selector) s).events.get 1).getLast? = some ⟨.eventsLost 1, 0, 1⟩ := by decide +kernel

/-- An event raised for a session that has ended since is queued in no later session (R92, R126). -/
theorem test_raisedEventQueuing_laterSession :
    let ev : RaisedEvent := ⟨.sessionUnit, .only 1 1, .claimLost 2 66 2⟩
    let s : State := { open123 with raised := [ev] }
    let t := result (.openSession 1 7 [0x01, 0xF4, 1]) s
    ((result (.raisedEventQueuing .sessionUnit) s).events.get 1).map (·.data) = [ev.data]
      ∧ (t.sessions.get 1).number = 2 ∧ (result (.raisedEventQueuing .sessionUnit) t).events.get 1 = [] := by
  decide +kernel

/-- An event raised after a soft reset is queued for a port only if it is raised after that port's next OPEN (R101). -/
theorem test_raisedEventQueuing_afterSoftReset :
    let slip : State → State := fun s => s.raise (.store 4) s.everyone (.slip 4 .dropped)
    let reset := result (.softReset (.command 3 7 [] .whole)) (slip open123)
    let before := result (.openSession 1 7 [0x01, 0xF4, 0]) (slip reset)
    let afterwards := slip (result (.openSession 1 7 [0x01, 0xF4, 0]) reset)
    reset.raised = [] ∧ (result (.raisedEventQueuing (.store 4)) before).events.get 1 = []
      ∧ ((result (.raisedEventQueuing (.store 4)) afterwards).events.get 1).map (·.data) = [.slip 4 .dropped] := by
  decide +kernel

theorem test_chipSelectFall :
    ((result (.chipSelectFall 1 5) (withEvents 1 [staleEvent, slipEvent] open123)).ports.get 1).transaction.map
      (fun t => t.item) = some (.event slipEvent) := by decide +kernel

theorem test_chipSelectRise :
    let s := during 3 .idle open123
    (answer (.chipSelectRise 3 (bits (commandFrame 0x31 0x02 [] ++ [0])) .whole 0) 3 s)
      = some ⟨0x31, ⟨.ok, [1, 0, 100, 3]⟩⟩ := by decide +kernel

/-- An event whose session has ended since the fall is not delivered at the rise (R185). -/
theorem test_chipSelectRise_stale :
    let s := during 1 (.event slipEvent) (withEvents 1 [slipEvent] open123)
    let rise : Instr := .chipSelectRise 1 (bits (List.replicate 13 0)) .whole 0
    (result rise s).events.get 1 = []
      ∧ (result rise (s.onSession 1 fun r => { r with isOpen := false })).events.get 1 = [slipEvent] := by
  decide +kernel

theorem test_heldFrameTaken :
    let s := open123.onPort 0 fun c => { c with held := some (Inbound.ofBytes (commandFrame 0x50 0x02 [] ++ [0])) }
    answer (.heldFrameTaken 0) 0 s = some ⟨0x50, ⟨.noSession, []⟩⟩ := by decide +kernel

theorem test_openSession :
    answer (.openSession 0 7 [0x01, 0xF4, 0]) 0 open123 = some ⟨7, ⟨.ok, [1, 0, 0x01, 0xF4, 0]⟩⟩ := by decide +kernel

theorem test_ping : answer (.ping 3 7 []) 3 open123 = some ⟨7, ⟨.ok, [1, 0, 100, 3]⟩⟩ := by decide +kernel

theorem test_close :
    answer (.close 2 7 []) 2 open123 = some ⟨7, ⟨.ok, [1]⟩⟩
      ∧ ((result (.close 2 7 []) open123).sessions.get 2).isOpen = false := by decide +kernel

/-- Steps 7 and 8 of the sequence of 10.1: HELD_BY in NORMAL mode, taken in PREEMPT mode. -/
theorem test_claim_heldBy :
    answer (.claim 2 7 [66, 67, 0]) 2 (ownedBy 1 67 (ownedBy 1 66 open123)) = some ⟨7, ⟨.heldBy, [66, 1]⟩⟩ := by
  decide +kernel

theorem test_claim_preempt :
    let s := ownedBy 1 67 (ownedBy 1 66 open123)
    answer (.claim 2 7 [66, 67, 1]) 2 s = some ⟨7, ⟨.ok, [0, 2, 0, 2]⟩⟩
      ∧ (result (.claim 2 7 [66, 67, 1]) s).raised = [⟨.sessionUnit, .only 1 1, .claimLost 2 66 2⟩] := by decide +kernel

theorem test_release :
    answer (.release 1 7 [60, 70]) 1 (ownedBy 2 67 (ownedBy 1 66 open123)) = some ⟨7, ⟨.ok, [0, 1]⟩⟩ := by decide +kernel

theorem test_queryOwner :
    answer (.queryOwner 0 7 [65, 66]) 0 (ownedBy 1 66 open123) = some ⟨7, ⟨.ok, [0xFF, 0, 1, 1]⟩⟩ := by decide +kernel

theorem test_softReset_begun :
    let t := result (.softReset (.command 3 7 [] .begun)) (waiting 0 2 (ownedBy 1 66 open123))
    (t.ports.get 0).responses = [] ∧ (t.ports.get 3).responses = [⟨7, ⟨.ok, []⟩⟩] ∧ t.claims.get 66 = none
      ∧ (t.sessions.get 3).endReason = .reset ∧ t.resetToReach.length = 41 := by decide +kernel

theorem test_softReset_reach :
    let s := resetting (txAt 4 ⟨.active, .sending (flying 2 false), none, false⟩ [] base)
    ((result (.softReset (.reach (.transmitter 4))) s).transmitters.get 4).sending = .aborting := by decide +kernel

theorem test_linkConfig :
    let t := result (.linkConfig 3 7 [4, 1, 1]) open123
    (t.receivers.get 4).state = .noSignal ∧ (t.transmitters.get 4).state = .waiting := by decide +kernel

theorem test_linkStatus :
    answer (.linkStatus 0 7 [2]) 0 (inFrame 2 base) = some ⟨7, ⟨.ok, [4, 0, 0, 0, 2, 1, 0, 0, 0, 0, 0, 0]⟩⟩ := by
  decide +kernel

theorem test_readFrame : answer (.readFrame 0 7 [2]) 0 base = some ⟨7, ⟨.linkDown, []⟩⟩ := by decide +kernel

theorem test_refTable :
    (result (.refTable 3 7 [1, 2, 3]) (inFrame 2 open123)).selector.table.get 0
      = ⟨.link 2, 3, false, .waiting, some 393216000000⟩ := by decide +kernel

theorem test_refLockout :
    (result (.refLockout 3 7 [1, 1]) (selIn (.locking 0) (rowOn 0 (.link 2) open123))).selector.state = .holdover := by
  decide +kernel

theorem test_refMode :
    let t := result (.refMode 3 7 [3, 0, 0, 30]) open123
    t.selector.revertive = false ∧ t.selector.restoreWait = 30 ∧ t.selector.holdoverLimit = 600 := by decide +kernel

/-- A present row forced though it waits: the selector moves, and the response carries slot and state. -/
theorem test_refForce :
    answer (.refForce 1 7 [1]) 1 ((inFrame 2 open123).onRow 0 fun _ => ⟨.link 2, 3, false, .waiting, some 5⟩)
      = some ⟨7, ⟨.ok, [2, 1, 1, 1, 1]⟩⟩ := by decide +kernel

/-- Step 3 of the sequence of 10.3: a MANUAL against a FORCE. -/
theorem test_refManual :
    answer (.refManual 1 7 [2]) 1 (asked .force 0 3 (rowOn 1 .wclk open123)) = some ⟨7, ⟨.heldBy, [3]⟩⟩ := by
  decide +kernel

/-- Step 5 of the sequence of 10.3: the owner clears, and row 2 becomes the target. -/
theorem test_refClear :
    answer (.refClear 3 7 []) 3 (selIn .holdover (asked .force 0 3 (rowOn 1 .wclk open123)))
      = some ⟨7, ⟨.ok, [0, 0xFF, 0xFF, 1, 2]⟩⟩ := by decide +kernel

/-- A request whose owner's session has ended: commands of port 2, of lower precedence, and REF_STATUS find NONE before
the notice is taken, which then finds no request of port 3 (R54, R59; log 35). -/
theorem test_refForce_afterTeardown :
    let s := result (.close 3 7 []) (asked .force 0 3 (rowOn 1 (.link 2) (rowOn 0 .wclk (inFrame 2 open123))))
    let t := result (.refForce 2 7 [2]) { s with raised := [] }
    s.selector.request = some ⟨.force, 0, 3, 1⟩
      ∧ answer (.refClear 2 7 []) 2 s = some ⟨7, ⟨.ok, [0, 0xFF, 0xFF, 0, 0xFF]⟩⟩
      ∧ (result (.refClear 2 7 []) s).selector = s.selector
      ∧ t.selector.request = some ⟨.force, 1, 2, 1⟩
      ∧ t.raised.map (fun e => e.data) = [.refRequestDropped .force 0 3 .ownerEnded, .refState (.locking 1) (some 1) .selected]
      ∧ (t.raised.map fun e => receives (result (.openSession 3 7 [0x01, 0xF4, 0]) t) e 3) = [false, true]
      ∧ (result (.rslSessionEndNotice 3) t).selector = t.selector ∧ (result (.rslSessionEndNotice 3) t).raised = t.raised := by
  decide +kernel

theorem test_refStatus :
    ((answer (.refStatus 0 7 []) 0 base).map fun r => r.reply.data.take 25)
      = some [0, 0xFF, 0xFF, 0, 0xFF, 0xFF, 0xFF, 0xFF, 0, 0, 7, 0, 0, 0, 0, 0, 0, 1, 0, 10, 0x02, 0x58, 2, 0xFF, 7] := by
  decide +kernel

theorem test_wclkOut : (result (.wclkOut 3 7 [1]) open123).timing.wclkEnable = true := by decide +kernel

theorem test_readMap :
    answer (.readMap 0 7 [255, 1]) 0 base = some ⟨7, ⟨.ok, [0, 0, 0, 0, 255, 0xFF, 0xFF, 0, 0, 0, 0, 0, 0]⟩⟩ := by
  decide +kernel

/-- Step 2 of the sequence of 10.1. -/
theorem test_stage :
    answer (.stage 1 7 [64, 1, 5, 0, 0, 0]) 1 (ownedBy 1 64 open123) = some ⟨7, ⟨.ok, [1, 1, 0]⟩⟩ := by decide +kernel

theorem test_unstage : answer (.unstage 1 7 [64]) 1 open123 = some ⟨7, ⟨.notFound, []⟩⟩ := by decide +kernel

theorem test_discard :
    answer (.discard 1 7 []) 1 (open123.onStaging 1 fun _ => ⟨[muteRecord 3], some 1⟩) = some ⟨7, ⟨.ok, [1]⟩⟩ := by
  decide +kernel

theorem test_stagingRead :
    answer (.stagingRead 1 7 [1]) 1 (open123.onStaging 1 fun _ => ⟨[muteRecord 3], some 1⟩)
      = some ⟨7, ⟨.ok, [1, 1, 3, 2, 1]⟩⟩ := by decide +kernel

/-- Step 6 of the sequence of 10.1, with sequence number 21. -/
theorem test_commit :
    let s := { (ownedBy 1 64 open123).onStaging 1 fun _ => ⟨[muteRecord 64], some 1⟩ with
      commitSeq := base.commitSeq.put 1 20 }
    answer (.commit 1 7 [0, 0, 0, 9]) 1 s = some ⟨7, ⟨.ok, [1, 0, 21, 0, 0, 0, 9, 1, 0]⟩⟩ := by decide +kernel

theorem test_cancel :
    answer (.cancel 1 7 [1, 0, 1]) 1 { open123 with commitQueue := [setOf 1 9 [muteRecord 3]] }
      = some ⟨7, ⟨.ok, [1, 0, 1, 0, 0, 0, 9, 1]⟩⟩ := by decide +kernel

theorem test_commitList :
    answer (.commitList 1 7 []) 1 { open123 with commitQueue := [setOf 2 5 [], setOf 1 9 [muteRecord 3]] }
      = some ⟨7, ⟨.ok, [0, 0, 0, 0, 2, 1, 0, 1, 0, 0, 0, 9, 1, 1]⟩⟩ := by decide +kernel

theorem test_subscribe :
    answer (.subscribe 1 7 [4, 0x41, 0x41]) 1 open123 = some ⟨7, ⟨.ok, [0]⟩⟩ := by decide +kernel

theorem test_unsubscribe : answer (.unsubscribe 1 7 [4]) 1 open123 = some ⟨7, ⟨.notFound, []⟩⟩ := by decide +kernel

theorem test_fetch :
    answer (.fetch 1 7 []) 1 (open123.onMailbox 1 fun m => { m with records := [⟨4, 0x41, [9, 8], 50083⟩], session := some 1 })
      = some ⟨7, ⟨.ok, [4, 0x41, 2, 9, 8, 0, 0, 0xC3, 0xA3, 0]⟩⟩ := by decide +kernel

/-- The request of 10.4: id 100, nothing ahead, none in flight. -/
theorem test_send :
    answer (.send 1 7 [4, 0x40, 1, 2]) 1 { txAt 4 ⟨.active, .idle, none, false⟩ [] open123 with messageIds := base.messageIds.put 1 99 }
      = some ⟨7, ⟨.ok, [0, 100, 0, 0]⟩⟩ := by decide +kernel

theorem test_setEventMask : answer (.setEventMask 1 7 [2]) 1 open123 = some ⟨7, ⟨.ok, [15]⟩⟩ := by decide +kernel

theorem test_countersRead :
    answer (.countersRead 0 7 [1, 0]) 0 base = some ⟨7, ⟨.ok, [1, 0, 0, 0, 0, 0, 0, 0, 0, 0, 0, 0]⟩⟩ := by decide +kernel

theorem test_countersClear :
    ((result (.countersClear 3 7 [0xFF, 0]) (open123.onPort 1 fun c => { c with badFrames := 9 })).ports.get 1).badFrames = 0 := by
  decide +kernel

/-! ### Every statement's hypotheses are met

One theorem per statement with hypotheses, named after it; each clause has its own states and operands, at the ends of
its range where it has one. -/

/-- What holds of an optional item where there is none. -/
theorem forall_of_none {α : Type} {o : Option α} (h : o = none) (P : α → Prop) : ∀ x, o = some x → P x := by
  intro x hx; rw [h] at hx; cases hx

/-- What holds of an optional item where there is one. -/
theorem forall_of_some {α : Type} {o : Option α} {a : α} (h : o = some a) (P : α → Prop) (hp : P a) :
    ∀ x, o = some x → P x := by
  intro x hx; rw [h] at hx; cases hx; exact hp

theorem witness_StepTakesTheFrontCommand :
    ({ base with pending := [.wclkOutFall, .outputFrameBoundary] } : State).pending = .wclkOutFall :: [.outputFrameBoundary]
      ∧ base.pending = [] := by decide +kernel

/-- A store in each case of R16; the window that this boundary brings to 0, and the one it does not. -/
theorem witness_BoundaryReadsEveryElasticStore :
    let one : Samples := Tab.fill 1
    let at' (e : Store) : Store := (base.onStore 3 fun _ => e).stores.get 3
    let mk (st : StoreState) (fs : List Samples) (w : Nat) : Store := { Store.initial with state := st, frames := fs, slipWindow := w }
    (at' (mk .idle [] 0)).state = .idle
      ∧ ((at' (mk .centering [one] 0)).state = .centering ∧ (at' (mk .centering [one] 0)).frames.length < 2)
      ∧ ((at' (mk .centering [one, one] 0)).state = .centering ∧ (at' (mk .centering [one, one] 0)).frames = one :: one :: [])
      ∧ ((at' (mk .running [one] 0)).state = .running ∧ (at' (mk .running [one] 0)).frames = one :: [])
      ∧ ((at' (mk .running [] 2)).state = .running ∧ (at' (mk .running [] 2)).frames = [] ∧ 1 < (at' (mk .running [] 2)).slipWindow)
      ∧ ((at' (mk .running [] 1)).state = .running ∧ (at' (mk .running [] 1)).frames = [] ∧ (at' (mk .running [] 1)).slipWindow ≤ 1) := by
  decide +kernel

/-- The selector in a state with row 0 on WCLK, whose last reference event was `k` time units before the next
boundary; `count` boundaries of a capture have passed. -/
def phased (st : SelectorState) (k : Int) (count : Nat) : State :=
  (selIn st (rowOn 0 .wclk base)).onSelector fun l => { l with
    captureCount := count, monitor := ⟨true, 0, 0, none, ⟨some (819200 - k).toNat, none⟩⟩ }

/-- Each selector state; errors at the limits of R48 and R49 and just beyond; counts at the limit; a failure that finds
no other row, and, the row loaded as QUALIFIED, one that finds the row itself. -/
theorem witness_BoundaryTestsThePhase :
    let fast (st : SelectorState) (k : Int) (c : Nat) : State :=
      (phased st k c).onSelector fun l => { l with restoreWait := 0 }
    let failed (s : State) (row : CandidateRow) : State := State.withdrawUnqualified { s with selector := { s.selector with
      captureCount := 200, table := s.selector.table.put 0 row } }
    let on (s : State) (st : SelectorState) : Prop := s.selector.state = st
    (on (phased (.locked 0) 204800 0) (.locked 0)
        ∧ within 4 ((phased (.locked 0) 204800 0).refLength 0) (phaseAt (phased (.locked 0) 204800 0) 0))
      ∧ (on (phased (.locked 0) 204801 0) (.locked 0)
        ∧ ¬ within 4 ((phased (.locked 0) 204801 0).refLength 0) (phaseAt (phased (.locked 0) 204801 0) 0))
      ∧ (on (phased (.locking 0) 102400 0) (.locking 0)
        ∧ within 8 ((phased (.locking 0) 102400 0).refLength 0) (phaseAt (phased (.locking 0) 102400 0) 0))
      ∧ (on (phased (.locking 0) 102401 198) (.locking 0)
        ∧ ¬ within 8 ((phased (.locking 0) 102401 198).refLength 0) (phaseAt (phased (.locking 0) 102401 198) 0)
        ∧ (phased (.locking 0) 102401 198).selector.captureCount + 1 < 200)
      ∧ (on (phased (.locking 0) (-102401) 199) (.locking 0)
        ∧ ¬ within 8 ((phased (.locking 0) (-102401) 199).refLength 0) (phaseAt (phased (.locking 0) (-102401) 199) 0)
        ∧ 200 ≤ (phased (.locking 0) (-102401) 199).selector.captureCount + 1
        ∧ (failed (phased (.locking 0) (-102401) 199) ⟨.wclk, 3, false, .waiting, some 1⟩).target = none)
      ∧ (failed (fast (.locking 0) (-102401) 199) ⟨.wclk, 3, false, .qualified, none⟩).target = some 0
      ∧ on base .freeRun ∧ on (selIn .holdover base) .holdover := by
  decide +kernel

/-- The states a boundary can leave, and corrections at and beyond 1/256 frame in both directions. -/
theorem witness_BoundaryFixesTheFrameLength :
    let left (s : State) : SelectorState := (result .outputFrameBoundary s).selector.state
    let part (k : Int) : Prop := within 256 ((phased (.locked 0) k 0).refLength 0) (phaseAt (phased (.locked 0) k 0) 0)
    left base = .freeRun ∧ left (selIn .holdover base) = .holdover
      ∧ (left (phased (.locked 0) 3200 0) = .locked 0 ∧ part 3200)
      ∧ (left (phased (.locking 0) 3201 0) = .locked 0 ∧ ¬ part 3201 ∧ 0 < phaseAt (phased (.locked 0) 3201 0) 0)
      ∧ (left (phased (.locking 0) 102401 0) = .locking 0 ∧ ¬ part 102401)
      ∧ (left (phased (.locked 0) (-3201) 0) = .locked 0 ∧ ¬ part (-3201) ∧ phaseAt (phased (.locked 0) (-3201) 0) 0 < 0)
      ∧ ((phased (.locked 0) 5 0).refClock 0).last = some 819195 := by
  decide +kernel

/-- A set due at the next boundary (frame 1) and one due a frame later; records owned, not owned, of an open session
and of an ended one. -/
theorem witness_BoundaryTakesAtMostTheHeadSet :
    let x := setOf 1 1 [muteRecord 3, muteRecord 4]
    let later := setOf 1 2 [muteRecord 3]
    let q (c : ChangeSet) (s : State) : State := { s with commitQueue := [c] }
    base.commitQueue = []
      ∧ ((q later base).commitQueue = later :: [] ∧ ¬ headDue (q later base) later)
      ∧ (headDue (q x base) x ∧ ∀ r ∈ x.records, recordOwned (ownedBy 1 4 (ownedBy 1 3 (q x open123))) x r)
      ∧ (x.records = [muteRecord 3] ++ muteRecord 4 :: [] ∧ (∀ r ∈ [muteRecord 3], recordOwned (ownedBy 1 3 (q x open123)) x r)
        ∧ ¬ recordOwned (ownedBy 1 3 (q x open123)) x (muteRecord 4)
        ∧ (open123.sessions.get x.id.port).isOpen = true ∧ (open123.sessions.get x.id.port).number = x.session)
      ∧ ¬ ((base.sessions.get x.id.port).isOpen = true ∧ (base.sessions.get x.id.port).number = x.session)
      ∧ (∀ r ∈ ([] ++ [muteRecord 4] : List ChangeRecord), r.dest ≠ (muteRecord 3).dest) := by
  decide +kernel

/-- The sample of a changed entry under invert: a record that turns invert on for a source of −8,388,608 and of 9. -/
theorem witness_BoundaryTakesAtMostTheHeadSet_invert :
    let x := setOf 1 1 [⟨64, some (.slot 2 0, 0), none, some true⟩, ⟨65, some (.slot 2 1, 0), none, some true⟩]
    let s : State := { (ownedBy 1 65 (ownedBy 1 64 (inFrame 2 open123))).onStore 2 fun e =>
      { e with frames := [(Tab.fill 9).put 0 0x800000] } with commitQueue := [x] }
    let t := result .outputFrameBoundary s
    headDue s x ∧ (∀ r ∈ x.records, recordOwned s x r)
      ∧ ((t.activeMap.get 64).invert = true ∧ (t.activeMap.get 64).current = 0x7FFFFF)
      ∧ ((t.activeMap.get 65).invert = true ∧ (t.activeMap.get 65).current = -9) := by decide +kernel

/-- An entry of destination 9 in each case of R63 to R68, under an empty queue and under a due set that names another
destination. -/
theorem witness_BoundaryComputesEveryDestination :
    let en (x : Source) (mute invert : Bool) (f : Option Fade) : MapEntry := ⟨x, mute, invert, f, 0⟩
    let low : Tab 16 Store := (base.stores).put 2 { Store.initial with current := some (Tab.fill 0x800000) }
    (∀ x rest, base.commitQueue = x :: rest → headDue base x → (∀ r ∈ x.records, recordOwned base x r) →
        ∀ r ∈ x.records, r.dest ≠ 9)
      ∧ (∀ r ∈ (setOf 1 1 [muteRecord 3]).records, r.dest ≠ (9 : Dest))
      ∧ (en .silent true false none).mute = true
      ∧ ((en .silent false false none).mute = false ∧ (en .silent false false none).invert = false)
      ∧ valueOf low (en (.slot 3 0) false true none) ≠ -8388608
      ∧ valueOf low (en (.slot 2 0) false true none) = -8388608
      ∧ (∀ f, (en .silent false false (some ⟨.slot 2 0, 2, 0⟩)).fade = some f → f.elapsed + 1 < f.length)
      ∧ (∀ f, (en .silent false false (some ⟨.slot 2 0, 2, 1⟩)).fade = some f → f.length ≤ f.elapsed + 1) := by
  refine ⟨fun x rest h => ?_, by decide +kernel, by decide +kernel, by decide +kernel, by decide +kernel, by decide +kernel,
    forall_of_some rfl _ (by decide), forall_of_some rfl _ (by decide)⟩
  have h0 : base.commitQueue = [] := rfl
  rw [h0] at h; cases h

theorem witness_BoundaryChoosesTheSideField :
    let tx (x : Sending) (q : List QueuedMessage) : State := txAt 4 ⟨.active, x, none, false⟩ q base
    ((tx .idle []).transmitters.get 4).state ≠ .off ∧ (tx .idle []).txQueues.get 4 = []
      ∧ (tx .idle [message]).txQueues.get 4 = message :: []
      ∧ ((tx (.sending (flying 5 true)) []).transmitters.get 4).sending = .sending (flying 5 true)
      ∧ (flying 5 true).lastPlaced = true ∧ (flying 2 false).lastPlaced = false
      ∧ (flying 2 false).nextByte + 3 = (flying 2 false).wire.length
      ∧ (flying 3 false).nextByte + 2 = (flying 3 false).wire.length
      ∧ (flying 4 false).nextByte + 1 = (flying 4 false).wire.length
      ∧ ((tx .aborting []).transmitters.get 4).sending = .aborting := by decide +kernel

/-- OFF, and a transmitter that sends; each selector state and source of R53. -/
theorem witness_TransmittedGradeAndLinkFramesBuilt :
    (base.transmitters.get 4).state = .off ∧ ((txAt 4 ⟨.waiting, .idle, none, false⟩ [] base).transmitters.get 4).state ≠ .off
      ∧ base.selector.state = .freeRun ∧ (selIn .holdover base).selector.state = .holdover
      ∧ (selIn (.locking 0) base).selector.state = .locking 0
      ∧ ((selIn (.locked 0) (rowOn 0 .wclk base)).selector.state = .locked 0
        ∧ ((selIn (.locked 0) (rowOn 0 .wclk base)).selector.table.get 0).source = .wclk)
      ∧ ((selIn (.locked 0) (rowOn 0 (.link 2) base)).selector.table.get 0).source = .link 2
      ∧ (base.transmitters.get 4).line = none
      ∧ (⟨.active, .idle, some (plainFrame 5), false⟩ : Transmitter).line ≠ none := by decide +kernel

theorem witness_WordClockOutputFollowsItsSetting :
    (Ready 3 open123 ∧ HasRight 3 open123) ∧ (1 < (2 : Byte).toNat)
      ∧ (base.onTiming fun t => { t with wclkPin := true }).timing.wclkPin = true := by decide +kernel

theorem witness_LineActivityMovesTheReceiver :
    let r (s : State) : Receiver := s.receivers.get 4
    ((r (rxAt 4 .noSignal base)).state = .noSignal ∧ (r (rxAt 4 .noSignal base)).qualifying = none)
      ∧ (r ((rxAt 4 .noSignal base).onReceiver 4 fun x => { x with qualifying := some 0 })).qualifying = some 0
      ∧ (r (rxAt 4 .search base)).state = .search := by decide +kernel

theorem witness_LossOfSignalLeavesTheFrame :
    ((rxAt 4 .search base).receivers.get 4).state = .search ∧ ((rxAt 4 .confirm base).receivers.get 4).state = .confirm
      ∧ ((inFrame 4 base).receivers.get 4).state = .inFrame := by decide +kernel

theorem witness_ThirdConfirmingFrameEntersInFrame :
    let c (k : Nat) : Receiver := ((rxAt 4 .confirm base).onReceiver 4 fun x => { x with confirmCount := k }).receivers.get 4
    (c 0).state = .confirm ∧ (c 0).position = some 7
      ∧ ¬ (LinkFrame.aligned damagedFrame = true ∧ LinkFrame.crcGood damagedFrame = true)
      ∧ (LinkFrame.aligned (plainFrame 5) = true ∧ LinkFrame.crcGood (plainFrame 5) = true)
      ∧ (c 1).confirmCount < 2 ∧ 2 ≤ (c 2).confirmCount
      ∧ ((c 2).clock.last = none ∧ ({ (c 2) with clock := ⟨some 3, none⟩ } : Receiver).clock.last = some 3)
      ∧ ((base.assemblers.get 4).item (goodItem (plainFrame 5))).2 = none
      ∧ (LinkFrame.sideCode (buildFrame 0 ⟨5, 0, 0⟩ (Tab.fill 5))).toNat < 6
      ∧ ¬ (LinkFrame.sideCode (buildFrame 0 ⟨6, 0, 0⟩ (Tab.fill 5))).toNat < 6 := by decide +kernel

/-- A store with four frames and a closed window; DEGRADED cleared by a good frame at the end of a window. -/
theorem witness_GoodFrameIsTakenWhole :
    let s := (inFrame 4 base).onStore 4 fun e => { e with frames := List.replicate 4 (Tab.fill 1) }
    let d := (inFrame 4 base).onReceiver 4 fun r => { r with degraded := true, windowFrames := 4799, windowDamage := 1 }
    ((s.receivers.get 4).state = .inFrame ∧ (s.receivers.get 4).position = some 7
        ∧ LinkFrame.aligned (plainFrame 5) = true ∧ LinkFrame.crcGood (plainFrame 5) = true)
      ∧ ((s.stores.get 4).frames.length ≥ 4 ∧ (s.stores.get 4).slipWindow = 0)
      ∧ ((result (.frameArrival 4 7 (plainFrame 5) 1) d).receivers.get 4).degraded ≠ (d.receivers.get 4).degraded := by
  decide +kernel

/-- A damaged frame; the third misaligned frame in a row; DEGRADED set by the sixteenth damaged frame; an assembler with
and without a message; a full store with a closed window. -/
theorem witness_DamagedAndMisalignedFramesAreConcealed :
    let s := (inFrame 4 base).onReceiver 4 fun r => { r with missCount := 2 }
    let d := (inFrame 4 base).onReceiver 4 fun r => { r with windowDamage := 15 }
    let m := (inFrame 4 base).onAssembler 4 fun a => { a with buffer := some [1, 2] }
    let full := s.onStore 4 fun e => { e with frames := List.replicate 4 (Tab.fill 1) }
    ((s.receivers.get 4).state = .inFrame ∧ (s.receivers.get 4).position = some 7
        ∧ (s.receivers.get 4).lastGood = some (LinkFrame.record (plainFrame 5) 3))
      ∧ (LinkFrame.aligned damagedFrame = true ∧ LinkFrame.crcGood damagedFrame = false)
      ∧ (LinkFrame.aligned misalignedFrame = false ∧ (s.receivers.get 4).missCount < 3)
      ∧ ((result (.frameArrival 4 7 damagedFrame 1) d).receivers.get 4).degraded ≠ (d.receivers.get 4).degraded
      ∧ (s.assemblers.get 4).buffer = none ∧ (m.assemblers.get 4).buffer ≠ none
      ∧ ((full.stores.get 4).frames.length ≥ 4 ∧ (full.stores.get 4).slipWindow = 0) := by decide +kernel

theorem witness_FourthMisalignedFrameIsLossOfFrame :
    let s := (inFrame 4 base).onReceiver 4 fun r => { r with missCount := 3 }
    (s.receivers.get 4).state = .inFrame ∧ (s.receivers.get 4).position = some 7
      ∧ LinkFrame.aligned misalignedFrame = false ∧ 3 ≤ (s.receivers.get 4).missCount := by decide +kernel

/-- Buffers at the edge of 35 wire bytes; a message completed by END1, good and not; and the five cases of a mailbox. -/
theorem witness_AssemblersHandMessagesToSubscribers :
    let buf (k : Nat) : List Byte := List.replicate k 1
    let coded (c : BitVec 3) : LinkFrame := buildFrame 0 ⟨c, 1, 2⟩ (Tab.fill 0)
    let wire := wireBytes 0x41 [9]
    let last (b : Byte) : LinkFrame := buildFrame 0 ⟨4, 9, b⟩ (Tab.fill 0)
    let s := (inFrame 4 open123).onAssembler 4 fun a => { a with buffer := some (wire.take 2) }
    let sub := s.setEntry 1 4 (some ⟨0x41, 0x41, 1⟩)
    let full (k : Nat) (n : SessionNo) (f : Bool) : State :=
      sub.onMailbox 1 fun _ => ⟨List.replicate k ⟨4, 0x41, [], 0⟩, some n, f, 0⟩
    ((buf 33).length + 2 ≤ 35 ∧ (buf 34).length + 1 ≤ 35 ∧ 35 < (buf 34).length + 2 ∧ 35 < (buf 35).length + 1)
      ∧ ((s.receivers.get 4).state = .inFrame ∧ (s.receivers.get 4).position = some 7
        ∧ LinkFrame.aligned (last 0) = true ∧ LinkFrame.crcGood (last 0) = true)
      ∧ ((LinkFrame.sideCode (coded 5)).toNat = 5 ∧ 6 ≤ (LinkFrame.sideCode (coded 6)).toNat
        ∧ 6 ≤ (LinkFrame.sideCode (coded 7)).toNat)
      ∧ (((inFrame 4 open123).assemblers.get 4).item (goodItem (last 0))).2 = none
      ∧ ((s.assemblers.get 4).item (goodItem (last (wire.getD 3 0)))).2 = some wire
      ∧ ((wire.getD 1 0).toNat + 3 = wire.length ∧ crc8 wire.dropLast = wire.getLastD 0)
      ∧ (((s.assemblers.get 4).item (goodItem (last 0))).2 = some (wire.dropLast ++ [0])
        ∧ crc8 (wire.dropLast ++ [0]).dropLast ≠ (wire.dropLast ++ [0]).getLastD 0)
      ∧ (s.subscriptions.get 4).get 1 = none
      ∧ ((sub.subscriptions.get 4).get 1 = some ⟨0x41, 0x41, 1⟩ ∧ (sub.sessions.get 1).isOpen = true
        ∧ (sub.sessions.get 1).number = 1 ∧ wire.getD 0 0 = 0x41)
      ∧ (sub.mailboxes.get 1).records = []
      ∧ (((full 15 1 false).mailboxes.get 1).records.length < 16 ∧ ((full 15 1 false).mailboxes.get 1).session = some 1)
      ∧ ((full 1 0 true).mailboxes.get 1).session ≠ some 1
      ∧ (16 ≤ ((full 16 1 false).mailboxes.get 1).records.length ∧ ((full 16 1 false).mailboxes.get 1).overflowFlag = false)
      ∧ (16 ≤ ((full 16 1 true).mailboxes.get 1).records.length ∧ ((full 16 1 true).mailboxes.get 1).overflowFlag = true) := by
  decide +kernel

theorem witness_WordClockMonitorTimesTheEdges :
    let s := base.onSelector fun l => { l with monitor := ⟨true, 0, 3, some 0, ⟨some 0, none⟩⟩ }
    base.now + 5 = 5 ∧ base.selector.monitor.timedFrom = none ∧ s.selector.monitor.timedFrom = some 0
      ∧ s.selector.monitor.clock.last = some 0 := by decide +kernel

theorem witness_SelectorTimersRunOut :
    let s := base.onRow 0 fun _ => ⟨.link 2, 3, false, .waiting, some 50⟩
    let h := base.onSelector fun l => { l with state := .holdover, holdoverTimer := some 50 }
    ((s.selector.table.get 0).qualification = .waiting ∧ (s.selector.table.get 0).restoreTimer = some 50)
      ∧ (h.selector.state = .holdover ∧ h.selector.holdoverTimer = some 50) := by decide +kernel

/-- Rows true to their presence on port 3's right: row 0 ABSENT on link 4, row 1 QUALIFIED on link 2. What each kind of
report makes of them: row 0 present, with a restore wait and without; row 1 gone, WAITING and QUALIFIED; none changed. -/
theorem witness_SelectorTimersRunOut_rows :
    let rows := (rowOn 1 (.link 2) (inFrame 2 open123)).onRow 0 fun _ => ⟨.link 4, 3, false, .absent, none⟩
    let s := (rxAt 4 .confirm rows).onReceiver 4 fun r => { r with confirmCount := 2 }
    let fast := s.onSelector fun l => { l with restoreWait := 0 }
    let waits := s.onRow 1 fun w => { w with qualification := .waiting, restoreTimer := some 50 }
    let after (i : Instr) (u : State) (r : RowIx) := ((result i u).selector.table.get r).qualification
    let legal (u : State) : Prop := ∀ r, (u.row r).qualification = .absent ↔ u.rowPresent r = false
    (Ready 3 s ∧ HasRight 3 s) ∧ legal s ∧ legal fast ∧ legal waits
      ∧ after (.confirmFrameArrival 4 7 (plainFrame 5) 1) s 0 = .waiting
      ∧ after (.confirmFrameArrival 4 7 (plainFrame 5) 1) fast 0 = .qualified
      ∧ after (.lossOfSignal 2 1) s 1 = .absent ∧ after (.linkConfig 3 7 [2, 0, 0]) waits 1 = .absent
      ∧ after (.frameArrival 2 7 damagedFrame 1) s 1 = .qualified
      ∧ after (.frameArrival 2 7 (buildFrame 4 idleField (Tab.fill 5)) 1) s 1 = .absent := by decide +kernel

/-- The word clock as a row's source: the edge that makes the monitor PRESENT, the missing interval that makes it
ABSENT. -/
theorem witness_SelectorTimersRunOut_wclk :
    let m (p : Bool) (good bad : Nat) (q : Qualification) : State :=
      ((base.onSelector fun l => { l with monitor := ⟨p, good, bad, some 0, ⟨some 0, none⟩⟩ }).onRow 0
        fun _ => ⟨.wclk, 7, false, q, none⟩)
    let legal (u : State) : Prop := ∀ r, (u.row r).qualification = .absent ↔ u.rowPresent r = false
    legal (m false 31 0 .absent) ∧ legal (m true 0 3 .qualified)
      ∧ ((result (.wclkRisingEdge 819200) (m false 31 0 .absent)).row 0).qualification = .waiting
      ∧ ((result .wclkMissingInterval (m true 0 3 .qualified)).row 0).qualification = .absent
      ∧ ((result (.wclkRisingEdge 819200) (m true 0 3 .qualified)).row 0).qualification = .qualified := by decide +kernel

/-- No request, revertive and not, on an eligible row and not; each kind of request; each move of R47. -/
theorem witness_RecomputationNamesTheTargetAndMoves :
    let s := (selIn (.locked 1) (rowOn 1 .wclk base)).onSelector fun l => { l with revertive := false }
    base.selector.request = none
      ∧ (s.selector.revertive = false ∧ s.selector.state.row = some 1 ∧ s.eligible 1 = true)
      ∧ base.selector.revertive ≠ false
      ∧ ((asked .force 0 3 open123).selector.request = some ⟨.force, 0, 3, 1⟩
        ∧ stands (asked .force 0 3 open123) ⟨.force, 0, 3, 1⟩)
      ∧ ((asked .manual 0 3 (rowOn 0 .wclk open123)).selector.request = some ⟨.manual, 0, 3, 1⟩
        ∧ stands (asked .manual 0 3 (rowOn 0 .wclk open123)) ⟨.manual, 0, 3, 1⟩
        ∧ ((asked .manual 0 3 (rowOn 0 .wclk open123)).row 0).qualification = .qualified)
      ∧ ((asked .manual 0 3 open123).row 0).qualification ≠ .qualified
      ∧ base.selector.state = .freeRun ∧ (selIn .holdover base).selector.state = .holdover
      ∧ (selIn (.locking 0) base).selector.state = .locking 0 ∧ (0 : RowIx) ≠ 1 := by decide +kernel

/-- A notice behind another port's; a request of the ended session, which stands no more on a CLOSED port nor in its next
session, and one of another. -/
theorem witness_SessionEndNoticesClearTheEndedSession :
    let l : List SessionEnd := [⟨2, 1, .closed⟩] ++ ⟨1, 1, .lapsed⟩ :: []
    let s : State := { asked .force 0 1 base with chmNotices := l, rslNotices := l, msuNotices := l, evuNotices := l }
    (∀ x ∈ ([⟨2, 1, .closed⟩] : List SessionEnd), x.port ≠ 1) ∧ s.chmNotices = l ∧ s.rslNotices = l
      ∧ s.msuNotices = l ∧ s.evuNotices = l ∧ s.selector.request = some ⟨.force, 0, 1, 1⟩
      ∧ (∀ q, (asked .force 0 2 base).selector.request = some q → ¬ (q.owner = 1 ∧ q.session = 1))
      ∧ ¬ stands s ⟨.force, 0, 1, 1⟩
      ∧ ¬ stands (open123.onSession 1 fun r => { r with number := 2 }) ⟨.force, 0, 1, 1⟩ := by
  refine ⟨by decide +kernel, by decide +kernel, by decide +kernel, by decide +kernel, by decide +kernel, by decide +kernel,
    forall_of_some rfl _ (by decide), by decide +kernel, by decide +kernel⟩

theorem witness_TransmitterNoticesReportMessages :
    let s (x : TxNotice) : State := { open123 with txNotices := base.txNotices.put 4 [x, .disable] }
    (s (.completion 1 1 100)).txNotices.get 4 = .completion 1 1 100 :: [.disable]
      ∧ (s (.discard 1 1 100)).txNotices.get 4 = .discard 1 1 100 :: [.disable]
      ∧ (s .disable).txNotices.get 4 = .disable :: [.disable] := by decide +kernel

/-- A CLOSED and an OPEN row; an addressed event; a queue with an EVENTS_LOST record, one with 30 records and one with
31. -/
theorem witness_RaisedEventIsQueuedForItsPorts :
    let ev : RaisedEvent := ⟨.selector, .all [2], .refState .freeRun none .holdoverExpired⟩
    let s (q : List EventRecord) : State := { withEvents 1 q open123 with raised := [⟨.sessionUnit, .all [], .peer .opened 2⟩, ev] }
    let lost : EventRecord := ⟨.eventsLost 1, 0, 1⟩
    let kept (q : List EventRecord) : List EventRecord := ((s q).events.get 1).filter fun r => r.session == ((s q).sessions.get 1).number
    ((open123.sessions.get 0).isOpen = false ∧ (open123.sessions.get 1).isOpen = true)
      ∧ ((1 : Port) ∉ [(2 : Port)] ∧ (2 : Port) ∈ [(2 : Port)])
      ∧ ((s []).raised = [⟨.sessionUnit, .all [], .peer .opened 2⟩] ++ ev :: []
        ∧ ∀ x ∈ ([⟨.sessionUnit, .all [], .peer .opened 2⟩] : List RaisedEvent), x.source ≠ ev.source)
      ∧ (receives (s []) ev 0 = false ∧ receives (s []) ev 1 = true ∧ receives (s []) ev 2 = false)
      ∧ (∃ r ∈ kept [staleEvent, slipEvent, lost], r.isLost = true)
      ∧ ((∀ r ∈ kept (List.replicate 30 slipEvent), r.isLost = false) ∧ (kept (List.replicate 30 slipEvent)).length < 31)
      ∧ ((∀ r ∈ kept (List.replicate 31 slipEvent), r.isLost = false) ∧ 31 ≤ (kept (List.replicate 31 slipEvent)).length) := by
  refine ⟨by decide +kernel, by decide +kernel, by decide +kernel, by decide +kernel, by decide +kernel, by decide +kernel, by decide +kernel⟩

theorem witness_CountsSaturateAt65535 : (65534 : Counter).toNat < 65535 ∧ (65535 : Counter).toNat = 65535 := by decide

theorem witness_OutboundFramesHaveTheirLayout :
    (⟨7, ⟨.ok, List.replicate 124 0⟩⟩ : Response).reply.data.length ≤ 124 ∧ OutItem.idle.frame.length ≤ 6
      ∧ [RxState.disabled, .noSignal, .search, .confirm, .inFrame][4]? = some .inFrame
      ∧ [SelectorState.freeRun, .locking 0, .locked 0, .holdover][3]? = some .holdover
      ∧ [RefReason.selected, .captured, .captureFail, .phaseLoss, .targetLost, .holdoverExpired][5]? = some .holdoverExpired
      ∧ [DropReason.superseded, .cleared, .ownerEnded, .lockedOut, .rowEdited, .notQualified][5]? = some .notQualified := by
  decide +kernel

theorem witness_ChipSelectFallChoosesTheItem :
    ((base.ports.get 1).transaction = none ∧ (base.ports.get 1).responses = [])
      ∧ ((waiting 1 1 base).ports.get 1).responses = ⟨0, ⟨.ok, []⟩⟩ :: []
      ∧ ((during 1 .idle base).ports.get 1).transaction = some ⟨.idle, OutItem.idle.frame, false, ⟨[], 0, true⟩⟩
      ∧ 55 / 8 < 56 / 8 ∧ 48 / 8 < 56 / 8 := by decide +kernel

/-- Five bytes that would make a sync error, and six of $00; an item clocked whole and one byte short. -/
theorem witness_ChipSelectRiseSettlesDelivery :
    let s (i : OutItem) : State := during 1 i (withEvents 1 [slipEvent] open123)
    let r : Response := ⟨0, ⟨.ok, []⟩⟩
    let t (i : OutItem) : Transaction := ⟨i, i.frame, false, ⟨[], 0, true⟩⟩
    (1 < (bits [1, 2] ++ [true]).length / 8 ∧ 7 < 8)
      ∧ ((s .idle).ports.get 1).transaction = some (t .idle)
      ∧ (wholeBytes (bits [1, 2, 3, 4, 5])).length < 6 ∧ (∀ b ∈ wholeBytes (bits [0, 0, 0, 0, 0, 0]), b = 0)
      ∧ ¬ ((t (.response r)).bytes.length ≤ (wholeBytes (bits [1, 2, 3, 4, 5])).length ∧ (t (.response r)).removed = false)
      ∧ ((t (.response r)).bytes.length ≤ (wholeBytes (bits [0, 0, 0, 0, 0, 0])).length ∧ (t (.response r)).removed = false)
      ∧ ((t (.event slipEvent)).bytes.length ≤ (wholeBytes (bits (List.replicate 20 0))).length
        ∧ HasSession 1 (s (.event slipEvent)) ∧ slipEvent.session = ((s (.event slipEvent)).sessions.get 1).number
        ∧ (s (.event slipEvent)).events.get 1 = slipEvent :: [])
      ∧ ((t (.event staleEvent)).bytes.length ≤ (wholeBytes (bits (List.replicate 20 0))).length
        ∧ staleEvent.session ≠ ((s (.event staleEvent)).sessions.get 1).number) := by decide +kernel

/-- The longest command frame; and the shortest, which needs one byte more to be six. -/
theorem witness_GoodFrameAtTheRiseIsItsCommand :
    let s := during 1 .idle open123
    ((s.ports.get 1).transaction = some ⟨.idle, OutItem.idle.frame, false, ⟨[], 0, true⟩⟩ ∧ s.resetToReach = []
        ∧ (s.ports.get 1).held = none)
      ∧ (wholeBytes (bits (commandFrame 7 Cmd.ping.code (List.replicate 60 1))) = commandFrame 7 Cmd.ping.code (List.replicate 60 1) ++ []
        ∧ (List.replicate 60 (1 : Byte)).length ≤ 60)
      ∧ (wholeBytes (bits (commandFrame 7 Cmd.ping.code [] ++ [0])) = commandFrame 7 Cmd.ping.code [] ++ [0]
        ∧ 6 ≤ (wholeBytes (bits (commandFrame 7 Cmd.ping.code [] ++ [0]))).length) := by decide +kernel

/-- Six bytes for each cause: a wrong sync; a length of 61, and one of 2 in six bytes; a wrong check. -/
theorem witness_BadFrameIsCountedAndAnswered :
    let s := during 1 .idle open123
    let l (bs : List Byte) : Nat := (bs.getD 3 0).toNat
    let a : List Byte := [0xA5, 0, 0, 0, 0, 0]
    let b : List Byte := [0xA6, 7, 2, 61, 0, 0]
    let c : List Byte := [0xA6, 7, 2, 2, 0, 0]
    let d : List Byte := [0xA6, 7, 2, 1, 0, 0]
    ((s.ports.get 1).transaction = some ⟨.idle, OutItem.idle.frame, false, ⟨[], 0, true⟩⟩ ∧ s.resetToReach = []
        ∧ (s.ports.get 1).held = none)
      ∧ (wholeBytes (bits a) = a ∧ 6 ≤ a.length ∧ (∃ x ∈ a, x ≠ 0) ∧ a.getD 0 0 ≠ 0xA6)
      ∧ (b.getD 0 0 = 0xA6 ∧ 60 < l b) ∧ (c.getD 0 0 = 0xA6 ∧ c.length < 5 + l c)
      ∧ (d.getD 0 0 = 0xA6 ∧ l d ≤ 60 ∧ 5 + l d ≤ d.length ∧ crc8 (d.take (4 + l d)) ≠ d.getD (4 + l d) 0) := by
  decide +kernel

/-- Four responses waiting; a soft reset in progress with and without a frame held; a frame held after it. -/
theorem witness_CommandsNotTakenAreDroppedOrHeld :
    let i : Inbound := ⟨(commandFrame 7 Cmd.ping.code [] ++ [0]).take 65, 0 + 6, false⟩
    let h := base.onPort 1 fun c => { c with held := some i }
    ((waiting 1 4 base).resetToReach = [] ∧ ((waiting 1 4 base).ports.get 1).held = none
        ∧ 4 ≤ ((waiting 1 4 base).ports.get 1).responses.length)
      ∧ (((resetting base).ports.get 1).held = none ∧ (resetting base).resetToReach ≠ []
        ∧ (List.replicate 60 (0 : Byte)).length ≤ 60)
      ∧ (h.ports.get 1).held = some i ∧ h.resetToReach = [] := by decide +kernel

/-- The command checks; and a good frame of a code that no command has. -/
theorem witness_CatalogueAndGatingRefuseInOrder :
    let s := during 1 .idle open123
    ((s.ports.get 1).transaction = some ⟨.idle, OutItem.idle.frame, false, ⟨[], 0, true⟩⟩ ∧ Ready 1 s
      ∧ (∀ c ∈ Cmd.all, c.code ≠ 0x08) ∧ wholeBytes (bits (commandFrame 7 0x08 [] ++ [0])) = commandFrame 7 0x08 [] ++ [0]
      ∧ 6 ≤ (wholeBytes (bits (commandFrame 7 0x08 [] ++ [0]))).length) ∧
    (Ready 0 open123 ∧ Cmd.ping.needsSession = true ∧ ¬ HasSession 0 open123)
      ∧ (Ready 2 open123 ∧ Cmd.refTable.needsRight = true ∧ HasSession 2 open123 ∧ (open123.sessions.get 2).precedence ≠ 3)
      ∧ (Ready 3 open123 ∧ HasSession 3 open123 ∧ (open123.sessions.get 3).precedence = 3
        ∧ Cmd.refTable.lengthOk 4 = false) := by decide +kernel

theorem witness_PingRenewsTheLeaseAndReports :
    (Ready 1 open123 ∧ HasSession 1 open123) ∧ (Ready 0 open123 ∧ ¬ HasSession 0 open123)
      ∧ ([0] : List Byte) ≠ [] := by decide +kernel

/-- Leases at both ends of the range and just outside it. -/
theorem witness_SessionsOpenCloseAndLapse :
    (Ready 0 open123 ∧ ¬ HasSession 0 open123) ∧ (Ready 1 open123 ∧ HasSession 1 open123)
      ∧ (100 ≤ (100 : BitVec 16).toNat ∧ (60000 : BitVec 16).toNat ≤ 60000)
      ∧ ¬ (100 ≤ (99 : BitVec 16).toNat) ∧ ¬ ((60001 : BitVec 16).toNat ≤ 60000) ∧ 1 < (2 : Byte).toNat
      ∧ (open123.sessions.get 1).lease = some 3932160000 := by decide +kernel

/-- A range without a conflict; one whose only conflict is its last destination, in both modes. -/
theorem witness_ClaimTakesTheRangeOrNothing :
    let s := ownedBy 2 66 open123
    (Ready 1 s ∧ HasSession 1 s ∧ (64 : Dest) ≤ 66)
      ∧ (∀ d : Dest, ¬ (64 ≤ d ∧ d ≤ 65 ∧ ∃ w, s.claims.get d = some w ∧ w.port ≠ 1))
      ∧ (s.claims.get 66 = some ⟨2, 1⟩ ∧ (2 : Port) ≠ 1 ∧ (s.sessions.get 1).precedence ≤ (s.sessions.get 2).precedence)
      ∧ (∀ e : Dest, e < 66 → s.claims.get e = none)
      ∧ ((65 : Byte) < 66 ∧ 1 < (2 : Byte).toNat) := by
  refine ⟨by decide +kernel, ?_, by decide +kernel, by decide +kernel, by decide +kernel⟩
  have h : ∀ d : Dest, 64 ≤ d → d ≤ 65 → (ownedBy 2 66 open123).claims.get d = none := by decide +kernel
  rintro d ⟨h1, h2, w, h3, _⟩
  rw [h d h1 h2] at h3; cases h3

/-- A range of one, a reversed one, and ranges of 32 and 33. -/
theorem witness_ReleaseFreesAndQueryOwnerReports :
    (Ready 1 open123 ∧ HasSession 1 open123) ∧ (7 : Dest) ≤ 7 ∧ (6 : Dest) < 7 ∧ (31 : Dest).val - (0 : Dest).val < 32
      ∧ 32 ≤ (32 : Dest).val - (0 : Dest).val := by decide +kernel

theorem witness_SoftResetClosesSessionsAndReachesBlocks :
    let s := during 1 .idle open123
    (Ready 3 s ∧ HasRight 3 s) ∧ (1 : Port) ≠ 3 ∧ (s.ports.get 1).transaction = some ⟨.idle, OutItem.idle.frame, false, ⟨[], 0, true⟩⟩
      ∧ (s.ports.get 2).transaction = none
      ∧ (∀ n : Link, .receiver n ∈ (resetting s).resetToReach ∧ .transmitter n ∈ (resetting s).resetToReach)
      ∧ (∀ b ∈ ([.selector, .map, .changeManager, .messageUnit, .eventUnit] : List ResetBlock), b ∈ (resetting s).resetToReach)
      ∧ (∀ p : Port, .port p ∈ (resetting s).resetToReach) := by decide +kernel

theorem witness_WholeSoftResetIsItsStepsInOrder : Ready 3 open123 ∧ HasRight 3 open123 := by decide +kernel

/-- A receiver DISABLED, one IN_FRAME; a transmitter OFF, one with a message in flight. -/
theorem witness_LinkConfigSetsTheEnables :
    let s := txAt 4 ⟨.active, .sending (flying 2 false), none, false⟩ [] (inFrame 4 open123)
    (Ready 3 s ∧ HasRight 3 s)
      ∧ ((s.receivers.get 5).state = .disabled ∧ (s.transmitters.get 5).state = .off)
      ∧ ((s.receivers.get 4).state = .inFrame ∧ (s.transmitters.get 4).state ≠ .off)
      ∧ 16 ≤ (16 : Byte).toNat ∧ 1 < (2 : Byte).toNat := by decide +kernel

theorem witness_LinkReadingsReportTheReceiver :
    Ready 0 base ∧ (base.receivers.get 15).lastGood = none
      ∧ ((inFrame 4 base).receivers.get 4).lastGood = some (LinkFrame.record (plainFrame 5) 3)
      ∧ 16 ≤ (16 : Byte).toNat := by decide +kernel

/-- A request that names the row, standing and of an ended session, and one that names another; fields at the ends of what
is refused; a lockout turned on, kept, and lifted, with a request on another row. -/
theorem witness_RefTableAndRefLockoutEditOneRow :
    let s := asked .force 0 3 open123
    let lifted := s.onRow 5 fun w => { w with lockout := true }
    (Ready 3 s ∧ HasRight 3 s) ∧ (s.selector.request = some ⟨.force, 0, 3, 1⟩)
      ∧ (∀ q, s.selector.request = some q → q.row ≠ 7)
      ∧ (8 < (9 : Byte).toNat ∧ (16 < (17 : Byte).toNat ∧ (254 : Byte).toNat < 255) ∧ 7 < (8 : Byte).toNat ∧ 1 < (2 : Byte).toNat)
      ∧ (s.selector.table.get 0).lockout = false ∧ (s.selector.table.get 0).lockout ≠ true
      ∧ ((lifted.selector.table.get 5).lockout ≠ false ∧ Ready 3 lifted ∧ HasRight 3 lifted)
      ∧ ((result (.refLockout 3 7 [6, 0]) lifted).selector.table.get 5).lockout = false
      ∧ stands s ⟨.force, 0, 3, 1⟩ ∧ ¬ stands (asked .force 0 0 open123) ⟨.force, 0, 0, 1⟩ := by
  refine ⟨by decide +kernel, by decide +kernel, forall_of_some rfl _ (by decide), by decide +kernel, by decide +kernel,
    by decide +kernel, by decide +kernel, by decide +kernel, by decide +kernel, by decide +kernel⟩

/-- Settings at the ends of their ranges and beyond; a holdover whose new limit is 0, spent, and not spent. -/
theorem witness_RefModeReplacesThePresentSettings :
    let h := (selIn .holdover open123).onSelector fun l => { l with holdoverSince := some 0 }
    let late : State := { h with now := 39321600000 }
    (Ready 3 open123 ∧ HasRight 3 open123 ∧ open123.selector.state ≠ .holdover)
      ∧ ((300 : BitVec 16).toNat ≤ 300 ∧ (3600 : BitVec 16).toNat ≤ 3600 ∧ (6 : Byte).toNat ≤ 6)
      ∧ (¬ (301 : BitVec 16).toNat ≤ 300 ∧ ¬ (3601 : BitVec 16).toNat ≤ 3600 ∧ ¬ (7 : Byte).toNat ≤ 6)
      ∧ (h.selector.state = .holdover ∧ (modeSet none none (some 0) none h.selector).holdoverLimit ≠ h.selector.holdoverLimit
        ∧ (modeSet none none (some 0) none h.selector).holdoverLimit = 0)
      ∧ (Ready 3 late ∧ HasRight 3 late ∧ (modeSet none none (some 1) none h.selector).holdoverLimit ≠ 0
        ∧ late.selector.holdoverSince = some 0
        ∧ 0 + (modeSet none none (some 1) none late.selector).holdoverLimit * Config.second ≤ late.now)
      ∧ h.now < 0 + (modeSet none none (some 1) none h.selector).holdoverLimit * Config.second := by decide +kernel

/-- Rows EMPTY, locked out, QUALIFIED and not; requests of a port of higher precedence, of lower, of an ended session, and
none. -/
theorem witness_RefForceManualAndClearSetTheSlot :
    let w (st : State) : CandidateRow := st.selector.table.get 0
    let s := rowOn 0 .wclk open123
    let locked := s.onRow 0 fun r => { r with lockout := true }
    let absent := s.onRow 0 fun r => { r with qualification := .absent }
    (Ready 1 s ∧ HasSession 1 s) ∧ (w open123).source = .empty
      ∧ ((w locked).source ≠ .empty ∧ (w locked).lockout = true ∧ (w locked).qualification = .qualified)
      ∧ ((w s).source ≠ .empty ∧ (w s).lockout = false ∧ (w s).qualification = .qualified)
      ∧ ((w absent).source ≠ .empty ∧ (w absent).qualification ≠ .qualified)
      ∧ ((asked .force 0 3 s).selector.request = some ⟨.force, 0, 3, 1⟩ ∧ (3 : Port) ≠ 1
        ∧ (s.sessions.get 1).precedence < (s.sessions.get 3).precedence)
      ∧ ((asked .manual 0 1 s).selector.request = some ⟨.manual, 0, 1, 1⟩)
      ∧ s.selector.request = none
      ∧ (stands s ⟨.force, 0, 3, 1⟩ ∧ stands s ⟨.manual, 0, 1, 1⟩ ∧ ¬ stands s ⟨.force, 0, 0, 1⟩
        ∧ ¬ stands s ⟨.force, 0, 3, 2⟩)
      ∧ ((1 : Port) ≠ 3 ∧ (s.sessions.get 1).precedence ≤ (s.sessions.get 3).precedence)
      ∧ 8 < (9 : Byte).toNat := by decide +kernel

/-- The last entry alone, eight entries, and ranges that are refused. -/
theorem witness_RefStatusAndReadMapReport :
    Ready 0 base ∧ (1 ≤ (1 : Byte).toNat ∧ (255 : Byte).toNat + (1 : Byte).toNat ≤ 256)
      ∧ ((8 : Byte).toNat ≤ 8 ∧ (248 : Byte).toNat + (8 : Byte).toNat ≤ 256)
      ∧ (8 < (9 : Byte).toNat ∧ 256 < (255 : Byte).toNat + (2 : Byte).toNat) := by decide +kernel

/-- A destination owned and not; a set that holds its record, one with 31 others and one with 32. -/
theorem witness_StagePlacesOneRecord :
    let s := ownedBy 1 64 open123
    let set (rs : List ChangeRecord) : State := s.onStaging 1 fun _ => ⟨rs, some 1⟩
    let many (k : Nat) : List ChangeRecord := List.replicate k (muteRecord 3)
    (Ready 1 s ∧ HasSession 1 s ∧ s.claims.get 64 = some ⟨1, (s.sessions.get 1).number⟩)
      ∧ ¬ (s.claims.get 65 = some ⟨1, (s.sessions.get 1).number⟩)
      ∧ (4095 : BitVec 16).toNat ≤ 4095
      ∧ ((freshSet (set [muteRecord 3, muteRecord 64, muteRecord 5]) 1).records = [muteRecord 3] ++ muteRecord 64 :: [muteRecord 5]
        ∧ ∀ x ∈ [muteRecord 3] ++ [muteRecord 5], x.dest ≠ 64)
      ∧ ((∀ x ∈ (freshSet (set (many 31)) 1).records, x.dest ≠ 64) ∧ (freshSet (set (many 31)) 1).records.length < 32)
      ∧ 32 ≤ (freshSet (set (many 32)) 1).records.length
      ∧ (freshSet (s.onStaging 1 fun _ => ⟨[muteRecord 64], some 0⟩) 1 = ⟨[], none⟩ ∧ Ready 1 s) := by decide +kernel

/-- A record of no part is not well formed, nor is one with a part left over. -/
theorem witness_StagePlacesOneRecord_malformed :
    ∀ ps ∈ [[64, 0], [64, 2, 1, 0]], ∀ (d : Dest) (source : Option (Source × BitVec 16)) (mute invert : Option Bool),
      (source.isSome ∨ mute.isSome ∨ invert.isSome) → (∀ x f, source = some (x, f) → f.toNat ≤ 4095) →
      ps ≠ stageParams d source mute invert := by
  intro ps hps d source mute invert h _ he
  have hd := congrArg (fun l : List Byte => (l.getD 1 0, l.length)) he
  simp only [List.mem_cons, List.not_mem_nil, or_false] at hps
  rcases source with _ | ⟨x, f⟩ <;> rcases mute with _ | m <;> rcases invert with _ | v <;> rcases hps with rfl | rfl <;>
    first | (simp at h; done) | (simp [stageParams, numByte] at hd)

theorem witness_StagingSetIsReducedAndRead :
    let s := open123.onStaging 1 fun _ => ⟨[muteRecord 64], some 1⟩
    (Ready 1 s ∧ HasSession 1 s)
      ∧ ((freshSet s 1).records = [] ++ muteRecord 64 :: [] ∧ (muteRecord 64).dest = 64)
      ∧ (∀ x ∈ (freshSet s 1).records, x.dest ≠ 65)
      ∧ (1 ≤ (1 : Byte).toNat ∧ (32 : Byte).toNat ≤ 32 ∧ 32 < (33 : Byte).toNat)
      ∧ (HasSession 1 (open123.onStaging 1 fun _ => ⟨[muteRecord 64], some 0⟩)
        ∧ freshSet (open123.onStaging 1 fun _ => ⟨[muteRecord 64], some 0⟩) 1 = ⟨[], none⟩) := by decide +kernel

/-- An empty set; a queue that is full for the port; an unowned record; due frames 480,000 and 480,001 ahead. -/
theorem witness_CommitQueuesTheStagingSet :
    let s := (ownedBy 1 64 open123).onStaging 1 fun _ => ⟨[muteRecord 64, muteRecord 65], some 1⟩
    let both := ownedBy 1 65 s
    let full : State := { s with commitQueue := [setOf 1 5 [], setOf 1 6 []] }
    let ahead (f : FrameNo) : Nat := (f - both.timing.frameCounter).toNat
    (Ready 1 s ∧ HasSession 1 s) ∧ (freshSet open123 1).records = []
      ∧ ((freshSet full 1).records ≠ [] ∧ 2 ≤ (full.commitQueue.filter fun x => x.id.port = 1).length)
      ∧ ((s.commitQueue.filter fun x => x.id.port = 1).length < 2
        ∧ (freshSet s 1).records = [muteRecord 64] ++ muteRecord 65 :: []
        ∧ (∀ x ∈ [muteRecord 64], s.claims.get x.dest = some ⟨1, (s.sessions.get 1).number⟩)
        ∧ ¬ (s.claims.get (muteRecord 65).dest = some ⟨1, (s.sessions.get 1).number⟩))
      ∧ ((freshSet both 1).records ≠ [] ∧ ∀ r ∈ (freshSet both 1).records, both.claims.get r.dest = some ⟨1, (both.sessions.get 1).number⟩)
      ∧ (480000 < ahead 480001 ∧ ahead 480001 < 2 ^ 31) ∧ ahead 480000 ≤ 480000 ∧ 2 ^ 31 ≤ ahead 0xFFFFFFFF := by
  decide +kernel

theorem witness_CancelWithdrawsAndCommitListReports :
    let s : State := { open123 with commitQueue := [setOf 2 5 [], setOf 1 9 [muteRecord 3]] }
    let named (k : BitVec 16) (x : ChangeSet) : Prop := x.id = ⟨1, k⟩ ∧ x.session = (s.sessions.get 1).number
    (Ready 1 s ∧ HasSession 1 s)
      ∧ (s.commitQueue = [setOf 2 5 []] ++ setOf 1 9 [muteRecord 3] :: [] ∧ named 1 (setOf 1 9 [muteRecord 3])
        ∧ ∀ y ∈ [setOf 2 5 []], ¬ named 1 y)
      ∧ (∀ y ∈ s.commitQueue, ¬ named 2 y) ∧ (2 : Port) ≠ 1 ∧ 3 < (4 : Byte).toNat := by decide +kernel

/-- An entry present, absent and of an ended session; a range of one type, and one the wrong way round. -/
theorem witness_SubscriptionsAreWrittenAndRemoved :
    let s := open123.setEntry 1 4 (some ⟨5, 5, 1⟩)
    let old := open123.setEntry 1 4 (some ⟨5, 5, 0⟩)
    (Ready 1 s ∧ HasSession 1 s) ∧ ((5 : Byte) ≤ 5 ∧ (4 : Byte) < 5)
      ∧ ((s.subscriptions.get 4).get 1 = some ⟨5, 5, 1⟩ ∧ (s.sessions.get 1).number = 1)
      ∧ (∀ e, (old.subscriptions.get 4).get 1 = some e → e.session ≠ (old.sessions.get 1).number)
      ∧ (open123.subscriptions.get 4).get 1 = none ∧ 16 ≤ (16 : Byte).toNat := by
  refine ⟨by decide +kernel, by decide +kernel, by decide +kernel, ?_, by decide +kernel, by decide +kernel⟩
  exact forall_of_some (a := ⟨5, 5, 0⟩) (by decide +kernel) _ (by decide +kernel)

/-- A mailbox of another session, an empty one and one with a record; a payload of 32; queues of 7 and 8 messages. -/
theorem witness_FetchAndSendMoveMessages :
    let box (n : SessionNo) : State := open123.onMailbox 1 fun m => { m with records := [⟨4, 0x41, [], 0⟩], session := some n }
    let tx (k : Nat) : State := txAt 4 ⟨.waiting, .idle, none, false⟩ (List.replicate k message) open123
    (Ready 1 open123 ∧ HasSession 1 open123) ∧ ((box 0).mailboxes.get 1).session ≠ some ((box 0).sessions.get 1).number
      ∧ (((box 1).mailboxes.get 1).session = some ((box 1).sessions.get 1).number
        ∧ ((box 1).mailboxes.get 1).records = ⟨4, 0x41, [], 0⟩ :: [])
      ∧ ((open123.mailboxes.get 1).session = none ∧ (open123.mailboxes.get 1).records = [])
      ∧ (List.replicate 32 (0 : Byte)).length ≤ 32 ∧ (open123.transmitters.get 4).state = .off
      ∧ (((tx 7).transmitters.get 4).state ≠ .off ∧ ((tx 7).txQueues.get 4).length < 8)
      ∧ 8 ≤ ((tx 8).txQueues.get 4).length ∧ 16 ≤ (16 : Byte).toNat := by decide +kernel

theorem witness_SetEventMaskReplacesTheMask :
    Ready 1 open123 ∧ HasSession 1 open123 ∧ 16 ≤ (16 : Byte).toNat := by decide +kernel

theorem witness_CountersAreReadAndCleared :
    (Ready 3 open123 ∧ HasRight 3 open123) ∧ 16 ≤ (16 : Byte).toNat ∧ 4 ≤ (4 : Byte).toNat ∧ 1 < (2 : Byte).toNat
      ∧ ¬ ((0xFF : Byte) = 0xFF ∧ (1 : Byte) = 0) := by decide +kernel

/-- A port without a session, and one with a session but no configuration right, for the clauses that refuse the commands
of RefTableAndRefLockout, RefForceManualAndClear, StagingSet, Cancel, Subscriptions and FetchAndSend. -/
theorem witness_RefusalsOfCommandsThatNeedASession :
    (Ready 0 open123 ∧ ¬ HasSession 0 open123)
      ∧ (Ready 1 open123 ∧ HasSession 1 open123 ∧ (open123.sessions.get 1).precedence ≠ 3)
      ∧ ([0] : List Byte) ≠ [] := by decide +kernel

/-- A state with sessions open and a command waiting, in which each invariant holds and a step is taken. -/
def running : State := { open123 with pending := [.wclkOutFall] }

theorem running_steps : step running = .next open123 := rfl

/-- What holds of the items of an empty list by position. -/
theorem commitQueueLegal_nil (c : FrameNo) : CommitQueueLegal c [] :=
  ⟨List.Pairwise.nil, fun i x h => by simp at h⟩

theorem witness_EveryStepKeepsTheCapacities :
    QueuesWithinCapacity running ∧ CollectionsLegal running ∧ step running = .next open123 := by
  refine ⟨by decide +kernel, ⟨by decide +kernel, ?_, by decide +kernel, commitQueueLegal_nil _⟩, running_steps⟩
  have h : ∀ n : Link, (running.assemblers.get n).buffer = none := by decide +kernel
  intro n b hb
  rw [h n] at hb; cases hb

theorem witness_EveryStepKeepsTheEventQueuesLegal : EventQueuesLegal running ∧ step running = .next open123 :=
  ⟨by decide +kernel, running_steps⟩

theorem witness_EveryStepKeepsClaimsWithOpenSessions :
    ClaimsHeldByOpenSessions running ∧ step running = .next open123 := by
  refine ⟨fun d w h => ?_, running_steps⟩
  have h0 : ∀ d : Dest, running.claims.get d = none := by decide +kernel
  rw [h0 d] at h; cases h

theorem witness_EveryStepKeepsTheLinksLegal :
    (ReceiversLegal running ∧ StoresFollowReceivers running ∧ OnlyActiveTransmittersSend running)
      ∧ step running = .next open123 := ⟨by decide +kernel, running_steps⟩

theorem witness_EveryStepKeepsTheSelectionLegal : SelectionLegal running ∧ step running = .next open123 := by
  refine ⟨⟨by decide +kernel, by decide +kernel, forall_of_none (by decide +kernel) _, fun r h => ?_, by decide +kernel⟩,
    running_steps⟩
  have h0 : running.selector.state.row = none := by decide +kernel
  rw [h0] at h; cases h

theorem witness_EveryStepKeepsTheFadesLegal : FadesLegal running ∧ step running = .next open123 := by
  refine ⟨⟨fun d => forall_of_none ?_ _, ?_, ?_⟩, running_steps⟩
  · have h : ∀ d : Dest, (running.activeMap.get d).fade = none := by decide +kernel
    exact h d
  · intro p r hr
    have h : ∀ p : Port, (running.staging.get p).records = [] := by decide +kernel
    rw [h p] at hr; cases hr
  · intro x hx
    have h : running.commitQueue = [] := by decide +kernel
    rw [h] at hx; cases hx

end Sys2Proof.Tests
end

section
/-! The readings of a link (R19, R20): what LINK_STATUS and READ_FRAME answer, field by field, and that neither changes
the state it is read from. -/

namespace Sys2Proof.Machine

/-! ### One spelling for the fields of a reading (R159) -/

/-- A 3-bit field sent as a byte is its number. -/
theorem setWidth_eq_small (g : BitVec 3) : [g.setWidth 8] = small g.toNat := by
  simp only [small, BitVec.ofNat_toNat]

theorem gradeByte_eq_small (g : Grade) : gradeByte g = small g.toNat := setWidth_eq_small g

theorem onOff_eq_flagByte (b : Bool) : onOff b = [flagByte b] := rfl

theorem txEnabled_eq_decide (s : State) (n : Link) : txEnabled s n = decide ((s.transmitters.get n).state ≠ .off) :=
  Bool.eq_iff_iff.mpr (by simp only [txEnabled, bne_iff_ne, decide_eq_true_eq])

/-- The samples of a frame in slot order are its samples by slot number. -/
theorem flatMap_samples_eq (t : Samples) :
    t.cells.flatMap sampleBytes = (List.finRange 16).flatMap fun i => sampleBytes (t.get i) := by
  rw [Tab.cells_eq_map_get, List.flatMap_map]

/-! ### The handlers, one lemma a case -/

/-- LINK_STATUS of a link reads its receiver, its store and its transmitter's enable (R19). -/
theorem linkStatusHandler_link (s : State) (n : Link) :
    linkStatusHandler [numByte n] s
      = (s, ok (small (s.receivers.get n).state.code ++ [flagByte (s.receivers.get n).degraded]
          ++ small (s.receivers.get n).grade.toNat ++ [flagByte (decide ((s.transmitters.get n).state ≠ .off))]
          ++ small (s.stores.get n).state.code ++ small (s.stores.get n).frames.length
          ++ nat16 (s.receivers.get n).windowFrames ++ nat16 (s.receivers.get n).windowDamage
          ++ nat16 (s.stores.get n).slipWindow)) := by
  simp only [linkStatusHandler, readLink_numByte, onOff_eq_flagByte, gradeByte_eq_small, txEnabled_eq_decide]

theorem linkStatusHandler_badLink (s : State) (b : Byte) (h : 16 ≤ b.toNat) :
    linkStatusHandler [b] s = (s, badArg) := by
  simp only [linkStatusHandler, readLink_none b h]

/-- READ_FRAME of a receiver without a last good frame (R20). -/
theorem readFrameHandler_noFrame (s : State) (n : Link) (h : (s.receivers.get n).lastGood = none) :
    readFrameHandler [numByte n] s = (s, refuse .linkDown) := by
  simp only [readFrameHandler, readLink_numByte, h]

/-- READ_FRAME of a receiver with a last good frame reads that frame (R20). -/
theorem readFrameHandler_frame (s : State) (n : Link) (g : GoodFrame)
    (h : (s.receivers.get n).lastGood = some g) :
    readFrameHandler [numByte n] s
      = (s, ok (small (s.receivers.get n).state.code ++ bytes32 g.arrival ++ small g.grade.toNat
          ++ small g.sideCode.toNat ++ [g.sideA, g.sideB]
          ++ (List.finRange 16).flatMap fun i => sampleBytes (g.slots.get i))) := by
  simp only [readFrameHandler, readLink_numByte, h, gradeByte_eq_small, setWidth_eq_small, flatMap_samples_eq]

theorem readFrameHandler_badLink (s : State) (b : Byte) (h : 16 ≤ b.toNat) :
    readFrameHandler [b] s = (s, badArg) := by
  simp only [readFrameHandler, readLink_none b h]

/-! ### The two commands taken: no session, no right, one parameter byte (R173) -/

theorem linkStatus_taken (s : State) (p : Port) (tag b : Byte) (h : Ready p s) :
    exec (.linkStatus p tag [b]) s = .next (answering p tag (linkStatusHandler [b] (leased p s)).2
      (linkStatusHandler [b] (leased p s)).1) :=
  command_taken .linkStatus p tag [b] s h (by simp [Cmd.needsSession]) (by simp [Cmd.needsRight]) rfl

theorem readFrame_taken (s : State) (p : Port) (tag b : Byte) (h : Ready p s) :
    exec (.readFrame p tag [b]) s = .next (answering p tag (readFrameHandler [b] (leased p s)).2
      (readFrameHandler [b] (leased p s)).1) :=
  command_taken .readFrame p tag [b] s h (by simp [Cmd.needsSession]) (by simp [Cmd.needsRight]) rfl

/-- Settles O39: each command taken is its handler on the leased state; the handler keeps that state, and the fields it
reports are those of `s`, since a lease renewed touches no receiver, store or transmitter. -/
theorem linkReadingsReportTheReceiver : Obligations.LinkReadingsReportTheReceiver := by
  rintro s p tag n r e hReady rfl rfl
  refine ⟨?status, ?noFrame, ?frame, fun b hb => ⟨?statusBadLink, ?frameBadLink⟩⟩
  case status =>
    rw [linkStatus_taken s p tag _ hReady, linkStatusHandler_link, leased_receivers, leased_stores, leased_transmitters]
    rfl
  case noFrame =>
    intro hNone
    rw [readFrame_taken s p tag _ hReady, readFrameHandler_noFrame _ n (by rwa [leased_receivers])]
    rfl
  case frame =>
    intro g hGood
    rw [readFrame_taken s p tag _ hReady, readFrameHandler_frame _ n g (by rwa [leased_receivers]), leased_receivers]
    rfl
  case statusBadLink =>
    rw [linkStatus_taken s p tag b hReady, linkStatusHandler_badLink _ b hb]
    rfl
  case frameBadLink =>
    rw [readFrame_taken s p tag b hReady, readFrameHandler_badLink _ b hb]
    rfl

end Sys2Proof.Machine
end

section
/-! Reference selection (R46, R47): the row a recomputation names, request by request, and the selector's moves on the
answer. -/

namespace Sys2Proof.Machine

/-! ### The selector's own target (R46) -/

theorem bestRow_eq_some (s : State) (j : RowIx) :
    s.bestRow = some j ↔ s.eligible j = true ∧ ∀ i, i < j → s.eligible i = false := by
  rw [State.bestRow, ← Fin.find?_eq_find?_finRange, Fin.find?_eq_some_iff]

theorem bestRow_eq_none (s : State) : s.bestRow = none ↔ ∀ j, s.eligible j = false := by
  rw [State.bestRow, ← Fin.find?_eq_find?_finRange, Fin.find?_eq_none_iff]

/-- The one case in which the selector holds on to its row: not revertive, and the row still eligible (R46). -/
abbrev KeepsCurrentRow (s : State) : Prop :=
  s.selector.revertive = false ∧ ∃ j, s.selector.state.row = some j ∧ s.eligible j = true

theorem ownTarget_of_keeps {s : State} (h : KeepsCurrentRow s) : s.ownTarget = s.selector.state.row := by
  obtain ⟨hRevertive, j, hRow, hEligible⟩ := h
  simp only [State.ownTarget, hRevertive, hRow, hEligible, if_true]

theorem ownTarget_of_not_keeps {s : State} (h : ¬ KeepsCurrentRow s) : s.ownTarget = s.bestRow := by
  unfold State.ownTarget
  split
  next j hRevertive hRow => exact if_neg fun hEligible => h ⟨hRevertive, j, hRow, hEligible⟩
  next => rfl

/-- The selector's own target does not look at the slot. -/
theorem ownTarget_dropRequest (s : State) (why : DropReason) : (s.dropRequest why).ownTarget = s.ownTarget := by
  unfold State.dropRequest
  split <;> rfl

/-! ### What a recomputation makes of the slot, and the target it then finds, one lemma a request (R46) -/

theorem withdrawUnqualified_of_not_standing {s : State} (h : s.standing = none) : s.withdrawUnqualified = s := by
  simp only [State.withdrawUnqualified, h]

theorem withdrawUnqualified_of_force {s : State} {q : Request} (h : s.standing = some q) (hk : q.kind = .force) :
    s.withdrawUnqualified = s := by
  simp [State.withdrawUnqualified, h, hk]

theorem withdrawUnqualified_of_qualified {s : State} {q : Request} (h : s.standing = some q)
    (hq : (s.row q.row).qualification = .qualified) : s.withdrawUnqualified = s := by
  simp [State.withdrawUnqualified, h, hq]

theorem withdrawUnqualified_of_unqualified_manual {s : State} {q : Request} (h : s.standing = some q)
    (hk : q.kind = .manual) (hq : (s.row q.row).qualification ≠ .qualified) :
    s.withdrawUnqualified = s.dropRequest .notQualified := by
  simp only [State.withdrawUnqualified, h, if_pos (And.intro hk hq)]

theorem target_of_not_standing {s : State} (h : s.standing = none) : s.target = s.ownTarget := by
  simp only [State.target, h]

theorem target_of_force {s : State} {q : Request} (h : s.standing = some q) (hk : q.kind = .force) :
    s.target = if s.rowPresent q.row then some q.row else none := by
  simp only [State.target, h, hk]

theorem target_of_manual {s : State} {q : Request} (h : s.standing = some q) (hk : q.kind = .manual) :
    s.target = some q.row := by
  simp only [State.target, h, hk]

theorem dropRequest_not_standing (s : State) (why : DropReason) : (s.dropRequest why).standing = none := by
  refine standing_of_none ?_
  rcases h : s.selector.request with _ | q
  · simp only [State.dropRequest, h]
  · rw [dropRequest_of_some s q why h]

/-! ### What a recomputation names -/

/-- A recomputation leaves the slot as in `u`, names `k`, and moves on it. -/
abbrev RecomputesTo (s u : State) (k : Option RowIx) : Prop :=
  s.withdrawUnqualified = u ∧ u.target = k ∧ s.recompute = u.moveTo k

theorem recomputesTo_of_target {s u : State} {k : Option RowIx} (hu : s.withdrawUnqualified = u) (hk : u.target = k) :
    RecomputesTo s u k :=
  ⟨hu, hk, by subst hu hk; rfl⟩

theorem recomputesTo_of_not_standing {s : State} (h : s.standing = none) : RecomputesTo s s s.ownTarget :=
  recomputesTo_of_target (withdrawUnqualified_of_not_standing h) (target_of_not_standing h)

theorem recomputesTo_of_force {s : State} {q : Request} (h : s.standing = some q) (hk : q.kind = .force) :
    RecomputesTo s s (if s.rowPresent q.row then some q.row else none) :=
  recomputesTo_of_target (withdrawUnqualified_of_force h hk) (target_of_force h hk)

theorem recomputesTo_of_qualified_manual {s : State} {q : Request} (h : s.standing = some q) (hk : q.kind = .manual)
    (hq : (s.row q.row).qualification = .qualified) : RecomputesTo s s (some q.row) :=
  recomputesTo_of_target (withdrawUnqualified_of_qualified h hq) (target_of_manual h hk)

/-- With its MANUAL withdrawn, the selector goes by its own target. -/
theorem recomputesTo_of_unqualified_manual {s : State} {q : Request} (h : s.standing = some q) (hk : q.kind = .manual)
    (hq : (s.row q.row).qualification ≠ .qualified) :
    RecomputesTo s (s.dropRequest .notQualified) s.ownTarget :=
  recomputesTo_of_target (withdrawUnqualified_of_unqualified_manual h hk hq) <| by
    rw [target_of_not_standing (dropRequest_not_standing s _), ownTarget_dropRequest]

/-- Where the selector goes by its own target, that is the current row if it is kept, and else the lowest-numbered
eligible row (R46). -/
theorem ownTarget_spec {s u : State} (h : RecomputesTo s u s.ownTarget) :
    (KeepsCurrentRow s → s.ownTarget = s.selector.state.row)
      ∧ (¬ KeepsCurrentRow s →
        (∀ j, s.ownTarget = some j → s.eligible j = true ∧ ∀ i, i < j → s.eligible i = false)
        ∧ (s.ownTarget = none → ∀ j, s.eligible j = false))
      ∧ RecomputesTo s u s.ownTarget := by
  refine ⟨ownTarget_of_keeps, fun hk => ?_, h⟩
  rw [ownTarget_of_not_keeps hk]
  exact ⟨fun j => (bestRow_eq_some s j).mp, (bestRow_eq_none s).mp⟩

/-! ### The moves (R47) -/

theorem row_of_freeRun_or_holdover {st : SelectorState} (h : st = .freeRun ∨ st = .holdover) : st.row = none := by
  rcases h with rfl | rfl <;> rfl

theorem row_of_locking_or_locked {st : SelectorState} {r : RowIx} (h : st = .locking r ∨ st = .locked r) :
    st.row = some r := by
  rcases h with rfl | rfl <;> rfl

theorem moveTo_none_of_no_row {s : State} (h : s.selector.state.row = none) : s.moveTo none = s := by
  simp only [State.moveTo, h]

theorem moveTo_none_of_row {s : State} {r : RowIx} (h : s.selector.state.row = some r) :
    s.moveTo none = s.enterHoldover .targetLost := by
  simp only [State.moveTo, h]

theorem moveTo_current {s : State} {r : RowIx} (h : s.selector.state.row = some r) : s.moveTo (some r) = s := by
  simp only [State.moveTo, h, if_true]

theorem moveTo_other {s : State} {k : RowIx} (h : s.selector.state.row ≠ some k) :
    s.moveTo (some k) = s.enterLocking k .selected := by
  rcases hr : s.selector.state.row with _ | r
  · simp only [State.moveTo, hr]
  · have hne : r ≠ k := fun he => h (hr.trans (congrArg some he))
    simp only [State.moveTo, hr, if_neg hne]

/-- Settles O20: what each request, or none, makes of the target is the lemma for that request; the moves are read off
the row of the selector's state. -/
theorem recomputationNamesTheTargetAndMoves : Obligations.RecomputationNamesTheTargetAndMoves := by
  refine ⟨fun s => ⟨fun hNone => ?empty, fun q hSlot hStands => ?request⟩,
    fun s k => ⟨fun hState => ?noRow, fun r hState => ?row⟩⟩
  case empty => exact ⟨_, ownTarget_spec (recomputesTo_of_not_standing (standing_of_none hNone))⟩
  case request =>
    have hq : s.standing = some q := standing_of_stands hSlot hStands
    refine ⟨recomputesTo_of_force hq, recomputesTo_of_qualified_manual hq, fun hk hUnqualified => ⟨s.ownTarget, ?_⟩⟩
    rw [← hk, ← dropRequest_of_some s q .notQualified hSlot]
    exact ownTarget_spec (recomputesTo_of_unqualified_manual hq hk hUnqualified)
  case noRow =>
    have hRow := row_of_freeRun_or_holdover hState
    exact ⟨moveTo_none_of_no_row hRow, moveTo_other (by simp [hRow])⟩
  case row =>
    have hRow := row_of_locking_or_locked hState
    refine ⟨moveTo_none_of_row hRow, ?_, fun hne => moveTo_other (by simpa [hRow] using hne)⟩
    rintro rfl
    exact moveTo_current hRow

end Sys2Proof.Machine
end

section
/-! PING, RELEASE and QUERY_OWNER (R88, R97, R98): what each handler makes of its parameters, and the command taken as
its handler on the state with the lease renewed. -/

namespace Sys2Proof.Machine

/-! ### PING (R88) -/

/-- PING on the leased state reports the session as it stands in `s`: a lease renewed changes none of what it reports. -/
theorem pingHandler_leased (p : Port) (s : State) :
    pingHandler p (leased p s)
      = (leased p s, ok ([(s.sessions.get p).number] ++ nat16 (s.sessions.get p).leasePeriod
          ++ small (s.sessions.get p).precedence)) := by
  simp only [pingHandler, State.sessionNo, State.precedence, leased_number, leased_leasePeriod, leased_precedence]

/-- Settles O32: taken, PING is its handler on the leased state; the two refusals are gating's. -/
theorem pingRenewsTheLeaseAndReports : Obligations.PingRenewsTheLeaseAndReports := by
  intro s p tag hReady
  refine ⟨fun hSession => ?taken, fun hClosed ps => ?noSession, fun hSession ps hParams => ?badLength⟩
  case taken =>
    have hTaken := command_taken .ping p tag [] s hReady (fun _ => hSession) (by simp [Cmd.needsRight]) rfl
    simp only [Cmd.handle, pingHandler_leased] at hTaken
    exact hTaken
  case noSession => exact command_noSession .ping p tag ps s hReady rfl hClosed
  case badLength =>
    have hLength : Cmd.ping.lengthOk ps.length = false := by simpa [Cmd.lengthOk] using hParams
    exact command_badLength .ping p tag ps s hReady (fun _ => hSession) (by simp [Cmd.needsRight]) hLength

/-! ### The Claim Table over a range (R97, R98) -/

/-- A range of two destinations' numbers is the range of the destinations. -/
theorem destRange_val (first last : Dest) :
    destRange first.val last.val = (List.finRange 256).filter fun d => first ≤ d ∧ d ≤ last := rfl

/-- A release frees an entry when the port is its owner, and only then. -/
theorem releaseOwner_eq_ite (p : Port) (o : Option Owner) :
    releaseOwner p o = if o.map Owner.port = some p then none else o := by
  cases o with
  | none => rfl
  | some w => simp only [releaseOwner, Option.map_some, Option.some.injEq]

/-- A release over a range frees the port's own entries of the range (R97). -/
theorem released_eq_tabulate (s : State) (p : Port) (first last : Dest) :
    released s p first.val last.val = Tab.tabulate fun d =>
      if first ≤ d ∧ d ≤ last ∧ (s.claims.get d).map Owner.port = some p then none else s.claims.get d := by
  refine congrArg Tab.tabulate (funext fun d => ?_)
  rw [releaseOwner_eq_ite, ← ite_and]
  simp only [Fin.le_def, and_assoc]

theorem ownedCount_eq_length (s : State) (p : Port) (first last : Dest) :
    ownedCount s p first.val last.val = (((List.finRange 256).filter fun d => first ≤ d ∧ d ≤ last).filter
      fun d => (s.claims.get d).map Owner.port = some p).length := by
  simp only [ownedCount, destRange_val, beq_eq_decide]

/-- An owned destination is reported by its owner and the session number recorded (R98). -/
theorem ownerBytes_some (w : Owner) : ownerBytes (some w) = [numByte w.port, w.session] := rfl

/-- A destination without an owner is reported as $FF $00 (R98, R159). -/
theorem ownerBytes_none : ownerBytes none = [0xFF, 0x00] := rfl

/-! ### The handlers, one lemma a case -/

theorem releaseHandler_range (s : State) (p : Port) {first last : Dest} (h : first ≤ last) :
    releaseHandler p [numByte first, numByte last] s
      = ({ s with claims := released s p first.val last.val }, ok (nat16 (ownedCount s p first.val last.val))) := by
  simp only [releaseHandler, toNat_numByte_dest, if_neg (Nat.not_lt.mpr h)]

theorem releaseHandler_reversed (s : State) (p : Port) {first last : Dest} (h : last < first) :
    releaseHandler p [numByte first, numByte last] s = (s, badArg) := by
  simp only [releaseHandler, toNat_numByte_dest, if_pos (Fin.lt_def.mp h)]

theorem queryOwnerHandler_range (s : State) {first last : Dest} (h : first ≤ last) (hLength : last.val - first.val < 32) :
    queryOwnerHandler [numByte first, numByte last] s
      = (s, ok ((destRange first.val last.val).flatMap fun d => ownerBytes (s.claims.get d))) := by
  have hVal : first.val ≤ last.val := h
  have hAccepted : ¬ (last.val < first.val ∨ 32 < last.val - first.val + 1) := by omega
  simp only [queryOwnerHandler, toNat_numByte_dest, if_neg hAccepted]

/-- A range the wrong way round, or of more than 32 destinations (R98). -/
theorem queryOwnerHandler_badRange (s : State) {first last : Dest} (h : last < first ∨ 32 ≤ last.val - first.val) :
    queryOwnerHandler [numByte first, numByte last] s = (s, badArg) := by
  have hRefused : last.val < first.val ∨ 32 < last.val - first.val + 1 := h.imp Fin.lt_def.mp Nat.lt_succ_of_le
  simp only [queryOwnerHandler, toNat_numByte_dest, if_pos hRefused]

/-! ### The two commands taken: two parameter bytes, a session for RELEASE alone (R173) -/

theorem release_taken (s : State) (p : Port) (tag a b : Byte) (hReady : Ready p s) (hSession : HasSession p s) :
    exec (.release p tag [a, b]) s = .next (answering p tag (releaseHandler p [a, b] (leased p s)).2
      (releaseHandler p [a, b] (leased p s)).1) :=
  command_taken .release p tag [a, b] s hReady (fun _ => hSession) (by simp [Cmd.needsRight]) rfl

theorem queryOwner_taken (s : State) (p : Port) (tag a b : Byte) (hReady : Ready p s) :
    exec (.queryOwner p tag [a, b]) s = .next (answering p tag (queryOwnerHandler [a, b] (leased p s)).2
      (queryOwnerHandler [a, b] (leased p s)).1) :=
  command_taken .queryOwner p tag [a, b] s hReady (by simp [Cmd.needsSession]) (by simp [Cmd.needsRight]) rfl

/-- Settles O35: each command taken is its handler on the leased state, whose Claim Table is that of `s`; the entries freed,
their count and the owners reported are then read off range by range. -/
theorem releaseFreesAndQueryOwnerReports : Obligations.ReleaseFreesAndQueryOwnerReports := by
  intro s p tag first last hReady inRange
  refine ⟨fun hSession hRange => ?release, fun hSession hReversed => ?releaseReversed,
    fun hRange hLength => ?query, fun hBad => ?queryBadRange⟩
  case release =>
    rw [release_taken s p tag _ _ hReady hSession, releaseHandler_range _ p hRange, released_eq_tabulate,
      ownedCount_eq_length, leased_claims]
    rfl
  case releaseReversed =>
    rw [release_taken s p tag _ _ hReady hSession, releaseHandler_reversed _ p hReversed]
    rfl
  case query =>
    have hOwners : ∀ d : Dest, ownerBytes (s.claims.get d) = match s.claims.get d with
        | some w => [numByte w.port, w.session]
        | none => [0xFF, 0x00] := fun d => by
      cases s.claims.get d with
      | some w => exact ownerBytes_some w
      | none => exact ownerBytes_none
    rw [queryOwner_taken s p tag _ _ hReady, queryOwnerHandler_range _ hRange hLength, destRange_val, leased_claims,
      funext hOwners]
    rfl
  case queryBadRange =>
    rw [queryOwner_taken s p tag _ _ hReady, queryOwnerHandler_badRange _ hBad]
    rfl

end Sys2Proof.Machine
end

section
/-! Committing, cancelling and listing (R111 to R115, R117, R118): what each check of COMMIT answers, the due frame it
settles, the set CANCEL names, and what COMMIT_LIST reports. -/

namespace Sys2Proof.Machine

/-! ### A staging set replaced leaves the rest of the state -/

section withStaging

variable (s : State) (p : Port) (t : Staging)

@[simp] theorem withStaging_self : (withStaging p t s).staging.get p = t := by
  rw [withStaging, Tab.get_put, if_pos rfl]

@[simp] theorem withStaging_commitQueue : (withStaging p t s).commitQueue = s.commitQueue := rfl
@[simp] theorem withStaging_commitSeq : (withStaging p t s).commitSeq = s.commitSeq := rfl
@[simp] theorem withStaging_claims : (withStaging p t s).claims = s.claims := rfl
@[simp] theorem withStaging_sessions : (withStaging p t s).sessions = s.sessions := rfl
@[simp] theorem withStaging_timing : (withStaging p t s).timing = s.timing := rfl

theorem withStaging_leased_sessionNo : (withStaging p t (leased p s)).sessionNo p = (s.sessions.get p).number := by
  rw [State.sessionNo, withStaging_sessions, leased_number]

theorem withStaging_leased_frame : (withStaging p t (leased p s)).frame = s.timing.frameCounter := by
  rw [State.frame, withStaging_timing, leased_timing]

end withStaging

/-! ### The due frame of a COMMIT (R111, R112) -/

/-- The parameters of a COMMIT: no due frame, or the one given (R111). -/
def dueParams (given : Option FrameNo) : List Byte :=
  match given with
  | some f => bytes32 f
  | none => []

/-- How far ahead of frame c the given due frame lies, modulo 2^32; no due frame counts as frame c itself (R112). -/
def dueDistance (c : FrameNo) (given : Option FrameNo) : Nat :=
  match given with
  | some f => (f - c).toNat
  | none => 0

/-- The due frame of an accepted set: the given one when it lies ahead within the limit, and else the next frame
(R112). -/
def dueFrame (c : FrameNo) (given : Option FrameNo) : FrameNo :=
  match given with
  | some f => if 1 ≤ dueDistance c given ∧ dueDistance c given ≤ 480000 then f else c + 1
  | none => c + 1

theorem readDue_dueParams (given : Option FrameNo) : readDue (dueParams given) = some given := by
  cases given with
  | none => rfl
  | some f => simp only [dueParams, bytes32, readDue, word32_bytes32]

theorem lengthOk_dueParams (given : Option FrameNo) : Cmd.commit.lengthOk (dueParams given).length = true := by
  cases given <;> rfl

theorem dueDistance_some (c f : FrameNo) : dueDistance c (some f) = (f - c).toNat := rfl

theorem dueMax_eq : Config.dueMax = 480000 := rfl

theorem settleDue_of_far {c : FrameNo} {given : Option FrameNo} (hFar : 480000 < dueDistance c given)
    (hAhead : dueDistance c given < 2 ^ 31) : settleDue c given = none := by
  cases given with
  | none => exact absurd hFar (Nat.not_lt_zero _)
  | some f =>
    rw [dueDistance_some] at hFar hAhead
    have hMax := dueMax_eq
    simp only [settleDue]
    rw [if_neg (by omega), if_neg (by omega), if_pos hAhead]

theorem settleDue_of_accepted {c : FrameNo} {given : Option FrameNo}
    (h : dueDistance c given ≤ 480000 ∨ 2 ^ 31 ≤ dueDistance c given) :
    settleDue c given = some (dueFrame c given) := by
  cases given with
  | none => rfl
  | some f =>
    have hDistance := dueDistance_some c f
    have hMax := dueMax_eq
    simp only [settleDue, dueFrame]
    by_cases hCurrent : (f - c).toNat = 0
    · rw [if_pos hCurrent, if_neg (by omega)]
    · by_cases hNear : (f - c).toNat ≤ Config.dueMax
      · rw [if_neg hCurrent, if_pos hNear, if_pos (by omega)]
      · rw [if_neg hCurrent, if_neg hNear, if_neg (by omega), if_neg (by omega)]

/-! ### Ownership of a set's records (R111, R121) -/

theorem owns_iff (s : State) (p : Port) (k : SessionNo) (d : Dest) :
    s.owns p k d = true ↔ s.claims.get d = some ⟨p, k⟩ := by
  simp only [State.owns, beq_iff_eq]

theorem firstFailing_of_first (s : State) {p : Port} {k : SessionNo} {pre post : List ChangeRecord} {r : ChangeRecord}
    (hPre : ∀ x ∈ pre, s.claims.get x.dest = some ⟨p, k⟩) (hFails : s.claims.get r.dest ≠ some ⟨p, k⟩) :
    firstFailing s p k (pre ++ r :: post) = some r := by
  refine List.find?_eq_some_iff_append.mpr ⟨?_, pre, post, rfl, fun x hx => ?_⟩
  · simpa [← owns_iff] using hFails
  · simpa [← owns_iff] using hPre x hx

theorem firstFailing_of_owned (s : State) {p : Port} {k : SessionNo} {rs : List ChangeRecord}
    (h : ∀ x ∈ rs, s.claims.get x.dest = some ⟨p, k⟩) : firstFailing s p k rs = none :=
  List.find?_eq_none.mpr fun x hx => by simpa [← owns_iff] using h x hx

theorem setsOf_eq (p : Port) (q : List ChangeSet) : setsOf p q = (q.filter fun x => x.id.port = p).length := by
  simp only [setsOf, beq_eq_decide]

theorem commitsPerPort_eq : Config.commitsPerPort = 2 := rfl

/-! ### COMMIT's handler, one lemma a check, in the order of R111 -/

section commit

variable {s : State} {p : Port} {given : Option FrameNo}

theorem commitHandler_empty (hEmpty : (freshSet s p).records = []) :
    commitHandler p (dueParams given) (leased p s) = (withStaging p (freshSet s p) (leased p s), refuse .empty) := by
  simp only [commitHandler, readDue_dueParams, freshStaging_leased, withStaging_self, if_pos hEmpty]

theorem commitHandler_full (hRecords : (freshSet s p).records ≠ []) (hFull : 2 ≤ setsOf p s.commitQueue) :
    commitHandler p (dueParams given) (leased p s) = (withStaging p (freshSet s p) (leased p s), refuse .full) := by
  simp only [commitHandler, readDue_dueParams, freshStaging_leased, withStaging_self, withStaging_commitQueue,
    leased_commitQueue, commitsPerPort_eq, if_neg hRecords, if_pos hFull]

theorem commitHandler_notOwner {pre post : List ChangeRecord} {r : ChangeRecord} (hRoom : setsOf p s.commitQueue < 2)
    (hSplit : (freshSet s p).records = pre ++ r :: post)
    (hPre : ∀ x ∈ pre, s.claims.get x.dest = some ⟨p, (s.sessions.get p).number⟩)
    (hFails : s.claims.get r.dest ≠ some ⟨p, (s.sessions.get p).number⟩) :
    commitHandler p (dueParams given) (leased p s)
      = (withStaging p (freshSet s p) (leased p s), ⟨.notOwner, small r.dest.val⟩) := by
  have hRecords : (freshSet s p).records ≠ [] := by simp [hSplit]
  have hFirst : firstFailing (withStaging p (freshSet s p) (leased p s)) p (s.sessions.get p).number
      (freshSet s p).records = some r := by
    rw [hSplit]
    exact firstFailing_of_first _ (by simpa using hPre) (by simpa using hFails)
  simp only [commitHandler, readDue_dueParams, freshStaging_leased, withStaging_self, withStaging_commitQueue,
    leased_commitQueue, withStaging_leased_sessionNo, commitsPerPort_eq, if_neg hRecords,
    if_neg (Nat.not_le.mpr hRoom), hFirst]

/-- The first three checks of R111 pass: the set holds records, the port has room in the queue, and it owns every
destination of the set. -/
structure Committable (s : State) (p : Port) : Prop where
  records : (freshSet s p).records ≠ []
  room : setsOf p s.commitQueue < 2
  owned : ∀ r ∈ (freshSet s p).records, s.claims.get r.dest = some ⟨p, (s.sessions.get p).number⟩

/-- The set that an accepted COMMIT forms (R113, R114). -/
def committedSet (s : State) (p : Port) (due : FrameNo) : ChangeSet :=
  ⟨⟨p, s.commitSeq.get p + 1⟩, due, (s.sessions.get p).number, (freshSet s p).records⟩

theorem firstFailing_of_committable (h : Committable s p) :
    firstFailing (withStaging p (freshSet s p) (leased p s)) p (s.sessions.get p).number (freshSet s p).records = none :=
  firstFailing_of_owned _ (by simpa using h.owned)

theorem commitHandler_farDue (h : Committable s p) (hDue : settleDue s.timing.frameCounter given = none) :
    commitHandler p (dueParams given) (leased p s) = (withStaging p (freshSet s p) (leased p s), badArg) := by
  simp only [commitHandler, readDue_dueParams, freshStaging_leased, withStaging_self, withStaging_commitQueue,
    leased_commitQueue, withStaging_leased_sessionNo, commitsPerPort_eq, if_neg h.records,
    if_neg (Nat.not_le.mpr h.room), firstFailing_of_committable h, withStaging_leased_frame, hDue]

theorem commitHandler_accepted (h : Committable s p) {due : FrameNo}
    (hDue : settleDue s.timing.frameCounter given = some due) :
    commitHandler p (dueParams given) (leased p s)
      = ({ leased p s with
            commitSeq := s.commitSeq.put p (s.commitSeq.get p + 1)
            commitQueue := insertSet (committedSet s p due) s.commitQueue
            staging := s.staging.put p ⟨[], none⟩ },
          ok (commitIdBytes ⟨p, s.commitSeq.get p + 1⟩ ++ bytes32 due ++ small (freshSet s p).records.length
            ++ small (setsAhead (committedSet s p due) s.commitQueue))) := by
  simp only [commitHandler, readDue_dueParams, freshStaging_leased, withStaging_self, withStaging_commitQueue,
    leased_commitQueue, withStaging_leased_sessionNo, commitsPerPort_eq, if_neg h.records,
    if_neg (Nat.not_le.mpr h.room), firstFailing_of_committable h, withStaging_leased_frame, hDue,
    withStaging_commitSeq, leased_commitSeq]
  simp only [withStaging, leased_staging, Tab.put_put]
  rfl

end commit

/-- COMMIT taken is its handler on the leased state (R111, R173). -/
theorem commit_taken (s : State) (p : Port) (tag : Byte) (given : Option FrameNo) (hReady : Ready p s)
    (hSession : HasSession p s) :
    exec (.commit p tag (dueParams given)) s
      = .next (answering p tag (commitHandler p (dueParams given) (leased p s)).2
          (commitHandler p (dueParams given) (leased p s)).1) :=
  command_taken .commit p tag _ s hReady (fun _ => hSession) (by simp [Cmd.needsRight]) (lengthOk_dueParams given)

/-- Settles O48: COMMIT taken is its handler on the leased state; each check of R111 that fails is a lemma of the
handler, and an accepted set is placed as `insertSet_split` tells. -/
theorem commitQueuesTheStagingSet : Obligations.CommitQueuesTheStagingSet := by
  intro s p tag given hReady hSession
  have hTaken := commit_taken s p tag given hReady hSession
  refine ⟨fun hEmpty => ?empty, fun hRecords hFull => ?full, fun pre r post hRoom hSplit hPre hFails => ?notOwner,
    fun hRecords hRoom hOwned hFar hAhead => ?farDue, fun hRecords hRoom hOwned hNear => ?accepted⟩
  case empty =>
    rw [commitHandler_empty hEmpty] at hTaken
    exact hTaken
  case full =>
    rw [commitHandler_full hRecords (by rwa [setsOf_eq])] at hTaken
    exact hTaken
  case notOwner =>
    rw [commitHandler_notOwner (by rwa [setsOf_eq]) hSplit hPre hFails] at hTaken
    exact hTaken
  case farDue =>
    rw [commitHandler_farDue ⟨hRecords, by rwa [setsOf_eq], hOwned⟩ (settleDue_of_far hFar hAhead)] at hTaken
    exact hTaken
  case accepted =>
    rw [commitHandler_accepted ⟨hRecords, by rwa [setsOf_eq], hOwned⟩ (settleDue_of_accepted hNear)] at hTaken
    obtain ⟨before, behind, hQueue, hBefore, hBehind, hInsert, hAhead⟩ :=
      insertSet_split (committedSet s p (dueFrame s.timing.frameCounter given)) s.commitQueue
    rw [hInsert, hAhead] at hTaken
    exact ⟨before, behind, hQueue, hBefore, hBehind, hTaken⟩

/-! ### CANCEL (R117) -/

theorem isCancelled_iff (s : State) (p : Port) (sequence : BitVec 16) (x : ChangeSet) :
    isCancelled s p sequence x = true ↔ x.id = ⟨p, sequence⟩ ∧ x.session = (s.sessions.get p).number := by
  obtain ⟨⟨_, _⟩, _, _, _⟩ := x
  simp only [isCancelled, State.sessionNo, Bool.and_eq_true, beq_iff_eq, CommitId.mk.injEq]

/-- On the queue, CANCEL of a set of the port takes the first set it names, or finds none (R117). -/
theorem cancelHandler_found {s : State} {p : Port} {sequence : BitVec 16} {pre post : List ChangeSet} {x : ChangeSet}
    (hQueue : s.commitQueue = pre ++ x :: post) (hNamed : isCancelled s p sequence x = true)
    (hPre : ∀ y ∈ pre, isCancelled s p sequence y = false) :
    cancelHandler p ([numByte p] ++ bytes16 sequence) s
      = (({ s with commitQueue := pre ++ post }).raise .changeManager (.only p (s.sessions.get p).number)
          (.commitCancelled x.id), ok (commitIdBytes x.id ++ bytes32 x.due ++ small x.records.length)) := by
  simp only [cancelHandler, bytes16, List.cons_append, List.nil_append, readPort_numByte, word16_bytes16, ne_eq,
    not_true_eq_false, if_false, hQueue, takeFirst_append _ pre post x hNamed hPre, State.sessionNo]

theorem cancelHandler_notFound {s : State} {p : Port} {sequence : BitVec 16}
    (hNone : ∀ y ∈ s.commitQueue, isCancelled s p sequence y = false) :
    cancelHandler p ([numByte p] ++ bytes16 sequence) s = (s, refuse .notFound) := by
  simp only [cancelHandler, bytes16, List.cons_append, List.nil_append, readPort_numByte, word16_bytes16, ne_eq,
    not_true_eq_false, if_false, takeFirst_none _ _ hNone]

/-- The id of another port names no set of the issuing one. -/
theorem cancelHandler_otherPort (s : State) {p q : Port} (sequence : BitVec 16) (hOther : q ≠ p) :
    cancelHandler p ([numByte q] ++ bytes16 sequence) s = (s, refuse .notFound) := by
  simp only [cancelHandler, bytes16, List.cons_append, List.nil_append, readPort_numByte, if_pos hOther]

theorem cancelHandler_badPort (s : State) (p : Port) (sequence : BitVec 16) {b : Byte} (h : 3 < b.toNat) :
    cancelHandler p ([b] ++ bytes16 sequence) s = (s, badArg) := by
  simp only [cancelHandler, bytes16, List.cons_append, List.nil_append, readPort_none b h]

theorem cancel_taken (s : State) (p : Port) (tag b : Byte) (sequence : BitVec 16) (hReady : Ready p s)
    (hSession : HasSession p s) :
    exec (.cancel p tag ([b] ++ bytes16 sequence)) s
      = .next (answering p tag (cancelHandler p ([b] ++ bytes16 sequence) (leased p s)).2
          (cancelHandler p ([b] ++ bytes16 sequence) (leased p s)).1) :=
  command_taken .cancel p tag _ s hReady (fun _ => hSession) (by simp [Cmd.needsRight]) rfl

/-! ### COMMIT_LIST (R118) -/

/-- COMMIT_LIST on the leased state reports the queue as it stands in `s`. -/
theorem commitListHandler_leased (p : Port) (s : State) :
    commitListHandler p (leased p s)
      = (leased p s, ok (bytes32 s.timing.frameCounter ++ small s.commitQueue.length
          ++ listedSets p (s.sessions.get p).number 0 s.commitQueue)) := by
  simp only [commitListHandler, State.frame, State.sessionNo, leased_timing, leased_commitQueue, leased_number]

/-- Settles O49: each command taken is its handler on the leased state, where the sets named are those named in `s`; on a
CLOSED port both are gating's refusal. -/
theorem cancelWithdrawsAndCommitListReports : Obligations.CancelWithdrawsAndCommitListReports := by
  refine ⟨fun s p tag sequence hReady hSession => ?session, fun s p tag ps hReady hClosed => ?closed⟩
  case closed =>
    exact ⟨command_noSession .cancel p tag ps s hReady rfl hClosed,
      command_noSession .commitList p tag ps s hReady rfl hClosed⟩
  case session =>
    have hNot : ∀ y : ChangeSet, ¬ (y.id = ⟨p, sequence⟩ ∧ y.session = (s.sessions.get p).number) →
        isCancelled (leased p s) p sequence y = false := fun y hy => by
      rwa [← Bool.not_eq_true, isCancelled_iff, leased_number]
    refine ⟨fun pre x post hQueue ⟨hId, hNumber⟩ hPre => ?found, fun q hMissing => ?notFound, fun b hb => ?badPort,
      fun ps hParams => ?badLength, ?list⟩
    case found =>
      rw [cancel_taken s p tag _ sequence hReady hSession,
        cancelHandler_found (by rwa [leased_commitQueue])
          ((isCancelled_iff _ _ _ _).mpr ⟨hId, by rwa [leased_number]⟩) fun y hy => hNot y (hPre y hy),
        leased_number, hId, State.raise, leased_raised]
      rfl
    case notFound =>
      rw [cancel_taken s p tag _ sequence hReady hSession]
      by_cases hOther : q = p
      · subst hOther
        have hNone : ∀ y ∈ (leased q s).commitQueue, isCancelled (leased q s) q sequence y = false := by
          rw [leased_commitQueue]
          exact fun y hy => hNot y (hMissing.resolve_left (· rfl) y hy)
        rw [cancelHandler_notFound hNone]
        rfl
      · rw [cancelHandler_otherPort _ sequence hOther]
        rfl
    case badPort =>
      rw [cancel_taken s p tag b sequence hReady hSession, cancelHandler_badPort _ p sequence hb]
      rfl
    case badLength =>
      have hLength : Cmd.commitList.lengthOk ps.length = false := by simpa [Cmd.lengthOk] using hParams
      exact command_badLength .commitList p tag ps s hReady (fun _ => hSession) (by simp [Cmd.needsRight]) hLength
    case list =>
      have hTaken := command_taken .commitList p tag [] s hReady (fun _ => hSession) (by simp [Cmd.needsRight]) rfl
      simp only [Cmd.handle, commitListHandler_leased, listedSets_eq] at hTaken
      exact hTaken

end Sys2Proof.Machine
end

section
/-! The transmitters' notices to the Message Unit (R147, R148): what the oldest notice of a link makes of the link's
queue and of the events raised. -/

namespace Sys2Proof.Machine

/-- An originator hears of its message while its session is open with the recorded number (R147, R148). -/
theorem originatorEvent_eq_ite (s : State) (p : Port) (k : SessionNo) (d : EventData) :
    originatorEvent s p k d
      = if (s.sessions.get p).isOpen = true ∧ (s.sessions.get p).number = k then [⟨.messageUnit, .only p k, d⟩] else [] := by
  simp only [originatorEvent, openWith_iff]

section notices

variable {s : State} {n : Link} {rest : List TxNotice} {p : Port} {k : SessionNo} {id : BitVec 16}

theorem completionNotice_taken (h : s.txNotices.get n = .completion p k id :: rest) :
    exec (.completionNotice n) s = .next { s with
      txNotices := s.txNotices.put n rest
      raised := s.raised ++ originatorEvent s p k (.msgSent id) } := by
  change execCompletionNotice n s = _
  simp only [execCompletionNotice, h]

theorem discardNotice_taken (h : s.txNotices.get n = .discard p k id :: rest) :
    exec (.discardNotice n) s = .next { s with
      txNotices := s.txNotices.put n rest
      raised := s.raised ++ originatorEvent s p k (.msgDiscarded id) } := by
  change execDiscardNotice n s = _
  simp only [execDiscardNotice, h]

theorem disableNotice_taken (h : s.txNotices.get n = .disable :: rest) :
    exec (.disableNotice n) s = .next { s with
      txNotices := s.txNotices.put n rest
      txQueues := s.txQueues.put n []
      raised := s.raised ++ (s.txQueues.get n).flatMap fun m =>
        originatorEvent s m.origin m.session (.msgDiscarded m.messageId) } := by
  change execDisableNotice n s = _
  simp only [execDisableNotice, h]

end notices

/-- Settles O22: each notice taken is the lemma for its kind; whom its events reach is `originatorEvent_eq_ite`. -/
theorem transmitterNoticesReportMessages : Obligations.TransmitterNoticesReportMessages := by
  intro s n rest p k id
  refine ⟨fun hCompletion => ?completion, fun hDiscard => ?discard, fun hDisable => ?disable⟩
  case completion => rw [completionNotice_taken hCompletion, originatorEvent_eq_ite]
  case discard => rw [discardNotice_taken hDiscard, originatorEvent_eq_ite]
  case disable => simp only [disableNotice_taken hDisable, originatorEvent_eq_ite]

end Sys2Proof.Machine
end

section
/-! Assemblers (R13, R130 to R134): what an item makes of an assembler in each of its states, the item a good frame
carries, and the frame taken in IN_FRAME that hands it on. -/

namespace Sys2Proof.Machine

/-! ### An item at an assembler (R130 to R133) -/

theorem wireMax_eq : Config.wireMax = 35 := rfl

section item

variable {a : Assembler} {buf more : List Byte}

theorem item_of_idle (h : a.buffer = none) (i : SideItem) : a.item i = a.idleItem i := by
  simp only [Assembler.item, h]

theorem item_of_assembling (h : a.buffer = some buf) (i : SideItem) : a.item i = a.assemblingItem buf i := by
  simp only [Assembler.item, h]

/-- More than 35 wire bytes abandon the message, whether or not these would be its last (R132). -/
theorem append_overlong (h : 35 < buf.length + more.length) (last : Bool) :
    a.append buf more last = ({ a with buffer := none, overlong := bump a.overlong }, none) := by
  rw [Assembler.append, wireMax_eq, List.length_append, if_pos h]

theorem append_continues (h : buf.length + more.length ≤ 35) :
    a.append buf more false = ({ a with buffer := some (buf ++ more) }, none) := by
  rw [Assembler.append, wireMax_eq, List.length_append, if_neg (Nat.not_lt.mpr h)]
  rfl

theorem append_completes (h : buf.length + more.length ≤ 35) :
    a.append buf more true = ({ a with buffer := none }, some (buf ++ more)) := by
  rw [Assembler.append, wireMax_eq, List.length_append, if_neg (Nat.not_lt.mpr h)]
  rfl

end item

/-! ### The item of a good frame (R13) -/

/-- The named codes are 0 to 5, in the order of R1. -/
theorem sideCodeOf_eq_getElem? (c : BitVec 3) :
    sideCodeOf c = [SideCode.idle, .start, .cont, .end1, .end2, .abort][c.toNat]? := by
  revert c; decide

theorem goodItem_of_named {f : LinkFrame} {c : SideCode} (h : sideCodeOf (LinkFrame.sideCode f) = some c) :
    goodItem f = .code c (LinkFrame.sideA f) (LinkFrame.sideB f) := by
  simp only [goodItem, h]

theorem goodItem_of_unnamed {f : LinkFrame} (h : sideCodeOf (LinkFrame.sideCode f) = none) :
    goodItem f = .code .abort (LinkFrame.sideA f) (LinkFrame.sideB f) := by
  simp only [goodItem, h]

/-! ### A good frame in IN_FRAME (R7, R35) -/

/-- The state in which a frame that arrived is classified: the time has passed, and the frame is a reference event of
its link (R35). -/
def frameArrived (n : Link) (elapsed : Time) (s : State) : State :=
  (s.advance elapsed).onReceiver n (Receiver.referenceEvent (s.now + elapsed))

/-- A good frame at the held position is taken whole, and the selector is told of it (R7, R13, R39). -/
theorem frameArrival_good {s : State} {n : Link} {pos : BitPos} {f : LinkFrame} (elapsed : Time)
    (hState : (s.receivers.get n).state = .inFrame) (hPosition : (s.receivers.get n).position = some pos)
    (hAligned : LinkFrame.aligned f = true) (hCrc : LinkFrame.crcGood f = true) :
    exec (.frameArrival n pos f elapsed) s = .next ((frameArrived n elapsed s).takeGoodFrame n f).reportSources := by
  change execFrameArrival n pos f elapsed s = _
  simp only [execFrameArrival, State.advance_receivers, State.advance_now, if_pos (And.intro hState hPosition),
    if_pos hAligned, if_pos hCrc, frameArrived]

/-- The arrival itself touches nothing that an assembler or a delivery looks at. -/
theorem sideItemReaches_of_frameArrived {n : Link} {i : SideItem} {elapsed : Time} {s t : State}
    (h : SideItemReaches n i (frameArrived n elapsed s) t) : SideItemReaches n i s t :=
  h.congr rfl rfl rfl rfl rfl (fun _ => rfl) rfl rfl fun _ => rfl

/-- Settles O17: an item acts by the assembler's state, where bytes appended go by the length they reach; a good frame
taken hands its item on, and what an item reaches is `sideItemReaches_takeGoodFrame`. -/
theorem assemblersHandMessagesToSubscribers : Obligations.AssemblersHandMessagesToSubscribers := by
  refine ⟨fun a x y => ⟨fun hIdle => ?idle, fun buf hBuffer => ?assembling⟩, fun f => ⟨fun c hCode => ?named,
    fun hCode => ?unnamed⟩, fun s n pos f elapsed hState hPosition hAligned hCrc => ?arrival⟩
  case idle =>
    simp only [item_of_idle hIdle]
    refine ⟨rfl, fun c hStray => ?stray, fun c hQuiet => ?quiet, rfl, rfl⟩
    case stray => rcases hStray with rfl | rfl | rfl <;> rfl
    case quiet => rcases hQuiet with rfl | rfl <;> rfl
  case assembling =>
    simp only [item_of_assembling hBuffer]
    exact ⟨fun h => ⟨append_continues h, append_completes h⟩, fun h => append_completes h,
      fun h => ⟨append_overlong h false, append_overlong h true⟩, fun h => append_overlong h true, rfl, rfl, rfl, rfl, rfl⟩
  case named => exact goodItem_of_named ((sideCodeOf_eq_getElem? _).trans hCode)
  case unnamed =>
    exact ⟨_, _, goodItem_of_unnamed ((sideCodeOf_eq_getElem? _).trans (List.getElem?_eq_none hCode))⟩
  case arrival =>
    exact ⟨_, frameArrival_good elapsed hState hPosition hAligned hCrc,
      sideItemReaches_of_frameArrived (sideItemReaches_takeGoodFrame n f _)⟩

end Sys2Proof.Machine
end

section
/-! The inbound side of a control port (R164 to R166): what a rise does to a transaction once its delivery is settled,
how the bytes clocked in are classified, and what a bad frame makes of its port. -/

namespace Sys2Proof.Machine

/-! ### A whole transaction's bytes (R153, R154, R165) -/

/-- Only the first 65 bytes are kept, so a byte among them is the byte clocked in (R154). -/
theorem byte_ofBytes {k : Nat} (bs : List Byte) (h : k < 65) : (Inbound.ofBytes bs).byte k = bs.getD k 0 := by
  change (bs.take 65).getD k 0 = _
  simp only [List.getD_eq_getElem?_getD, List.getElem?_take_of_lt h]

theorem count_ofBytes (bs : List Byte) : (Inbound.ofBytes bs).count = bs.length := Nat.zero_add _

theorem paramLength_ofBytes (bs : List Byte) : (Inbound.ofBytes bs).paramLength = (bs.getD 3 0).toNat :=
  congrArg BitVec.toNat (byte_ofBytes bs (by omega))

/-- What the check of a frame runs over is kept whole (R154, R155). -/
theorem take_kept_ofBytes {k : Nat} (bs : List Byte) (h : k ≤ 65) : (Inbound.ofBytes bs).kept.take k = bs.take k := by
  change (bs.take 65).take k = _
  rw [List.take_take, Nat.min_eq_left h]

/-- The two ways in which a transaction carries no command (R165). -/
theorem noCommand_ofBytes_iff (bs : List Byte) :
    (Inbound.ofBytes bs).noCommand = true ↔ bs.length < 6 ∨ ∀ b ∈ bs, b = 0 := by
  simp [Inbound.noCommand, Inbound.ofBytes, Inbound.empty, Inbound.add]

/-! ### The first check that fails (R165) -/

section classify

variable {bs : List Byte} (hCommand : (Inbound.ofBytes bs).noCommand = false)
include hCommand

theorem classify_badSync (hSync : bs.getD 0 0 ≠ 0xA6) : (Inbound.ofBytes bs).classify = .bad .sync := by
  rw [← byte_ofBytes bs (by omega)] at hSync
  rw [Inbound.classify, if_neg (by simp [hCommand]), if_pos hSync]

theorem classify_badLength (hSync : bs.getD 0 0 = 0xA6)
    (hLength : Config.paramMax < (bs.getD 3 0).toNat ∨ bs.length < 5 + (bs.getD 3 0).toNat) :
    (Inbound.ofBytes bs).classify = .bad .length := by
  rw [← byte_ofBytes bs (by omega)] at hSync
  rw [← paramLength_ofBytes, ← count_ofBytes] at hLength
  rw [Inbound.classify, if_neg (by simp [hCommand]), if_neg (not_not_intro hSync), if_pos hLength]

theorem classify_badCheck (hSync : bs.getD 0 0 = 0xA6) (hMax : (bs.getD 3 0).toNat ≤ Config.paramMax)
    (hCount : 5 + (bs.getD 3 0).toNat ≤ bs.length)
    (hCheck : crc8 (bs.take (4 + (bs.getD 3 0).toNat)) ≠ bs.getD (4 + (bs.getD 3 0).toNat) 0) :
    (Inbound.ofBytes bs).classify = .bad .check := by
  rw [← paramLength_ofBytes] at hMax hCount hCheck
  have hKept : (Inbound.ofBytes bs).paramLength ≤ 60 := hMax
  rw [← take_kept_ofBytes bs (by omega), ← byte_ofBytes bs (by omega)] at hCheck
  rw [← byte_ofBytes bs (by omega)] at hSync
  have hFits : ¬ (Config.paramMax < (Inbound.ofBytes bs).paramLength
      ∨ (Inbound.ofBytes bs).count < 5 + (Inbound.ofBytes bs).paramLength) := by
    rw [count_ofBytes]; omega
  rw [Inbound.classify, if_neg (by simp [hCommand]), if_neg (not_not_intro hSync), if_neg hFits, if_pos hCheck]

end classify

/-! ### The rise of a transaction (R164) -/

/-- The state in which the inbound bytes of a transaction are looked at: the time has passed, delivery is settled for
`count` whole bytes, and the transaction is over (R161, R164). -/
def riseSettled (p : Port) (t : Transaction) (count : Nat) (elapsed : Time) (s : State) : State :=
  ((s.advance elapsed).settle p t count).onPort p fun c => { c with transaction := none }

/-- Delivery settled leaves a port as ready for a command, or as little, as it was (R174). -/
theorem blocked_riseSettled (p : Port) (t : Transaction) (count : Nat) (elapsed : Time) (s : State) :
    (riseSettled p t count elapsed s).blocked p = s.blocked p := by
  obtain ⟨hHeld, hReset⟩ := settle_held p t count (s.advance elapsed)
  simp only [State.blocked, riseSettled, State.onPort_resetToReach, State.onPort_ports, Tab.get_modify, if_true, hHeld,
    hReset, State.advance_resetToReach, State.advance_ports]

section rise

variable {s : State} {p : Port} {t : Transaction} {sdi : List Bool} (span : ResetSpan) (elapsed : Time)
  (hTransaction : (s.ports.get p).transaction = some t) (hInbound : t.inbound = Inbound.empty)
include hTransaction hInbound

/-- A rise in the order of R164: delivery, then the bytes clocked in. -/
theorem chipSelectRise_eq :
    exec (.chipSelectRise p sdi span elapsed) s
      = .next (let u := riseSettled p t (wholeBytes sdi).length elapsed s
          if (Inbound.ofBytes (wholeBytes sdi)).noCommand then u
          else if u.blocked p then u.onPort p (PortState.hold (Inbound.ofBytes (wholeBytes sdi)))
          else u.takeInbound p (Inbound.ofBytes (wholeBytes sdi)) span) := by
  change execChipSelectRise p sdi span elapsed s = _
  have hAdded : t.inbound.add (wholeBytes sdi) = Inbound.ofBytes (wholeBytes sdi) := by rw [hInbound, Inbound.ofBytes]
  simp only [execChipSelectRise, State.advance_ports, hTransaction, hAdded, count_ofBytes]
  rfl

theorem chipSelectRise_noCommand (h : (wholeBytes sdi).length < 6 ∨ ∀ b ∈ wholeBytes sdi, b = 0) :
    exec (.chipSelectRise p sdi span elapsed) s = .next (riseSettled p t (wholeBytes sdi).length elapsed s) := by
  rw [chipSelectRise_eq span elapsed hTransaction hInbound]
  simp only [if_pos ((noCommand_ofBytes_iff _).mpr h)]

/-- The same number of bits, all low, settles the same delivery and carries no command (R165). -/
theorem chipSelectRise_low :
    exec (.chipSelectRise p (sdi.map fun _ => false) span elapsed) s
      = .next (riseSettled p t (wholeBytes sdi).length elapsed s) := by
  obtain ⟨hLength, hZero⟩ := wholeBytes_zero sdi
  rw [chipSelectRise_noCommand span elapsed hTransaction hInbound (.inr hZero), hLength]

theorem chipSelectRise_taken (hCommand : (Inbound.ofBytes (wholeBytes sdi)).noCommand = false)
    (hFree : s.blocked p = false) :
    exec (.chipSelectRise p sdi span elapsed) s
      = .next ((riseSettled p t (wholeBytes sdi).length elapsed s).takeInbound p (Inbound.ofBytes (wholeBytes sdi))
          span) := by
  rw [chipSelectRise_eq span elapsed hTransaction hInbound]
  simp only [blocked_riseSettled, hCommand, hFree, Bool.false_eq_true, if_false]

end rise

/-! ### A bad frame taken (R166, R171) -/

/-- A bad frame counts one and is answered when fewer than four responses wait; nothing else of its port changes. -/
theorem takeBad_eq (tag : Byte) (cause : BadCause) (c : PortState) :
    c.takeBad tag cause = { c with
      badFrames := bump c.badFrames
      responses := c.responses
        ++ if c.responses.length < 4 then [⟨tag, ⟨.badFrame, small cause.code⟩⟩] else [] } := by
  by_cases hRoom : c.responses.length < 4
  · have hFull : c.full = false := decide_eq_false (Nat.not_le.mpr hRoom)
    simp only [PortState.takeBad, hFull, if_pos hRoom, PortState.answer, Bool.false_eq_true, if_false]
  · have hFull : c.full = true := decide_eq_true (Nat.not_lt.mp hRoom)
    simp only [PortState.takeBad, hFull, if_neg hRoom, if_true, List.append_nil]

/-- A bad frame touches its own port alone, so no lease is renewed (R166). -/
theorem takeInbound_bad {bs : List Byte} {cause : BadCause} (p : Port) (span : ResetSpan) (u : State)
    (h : (Inbound.ofBytes bs).classify = .bad cause) :
    u.takeInbound p (Inbound.ofBytes bs) span = { u with
      ports := u.ports.modify p fun c => { c with
        badFrames := bump c.badFrames
        responses := c.responses
          ++ if c.responses.length < 4 then [⟨bs.getD 1 0, ⟨.badFrame, small cause.code⟩⟩] else [] } } := by
  simp only [State.takeInbound, h, State.onPort, funext (takeBad_eq _ cause), byte_ofBytes bs (show 1 < 65 by omega)]

/-- Settles O29: the rise takes the bytes on the state the low bits leave, and the first check that fails, one lemma a
check, gives the cause a bad frame is answered with. -/
theorem badFrameIsCountedAndAnswered : Obligations.BadFrameIsCountedAndAnswered := by
  rintro s p t sdi span elapsed bs cause hTransaction hInbound hReset hHeld rfl hSix ⟨b, hMem, hNonzero⟩ l hCause
  have hCommand : (Inbound.ofBytes (wholeBytes sdi)).noCommand = false := by
    rw [← Bool.not_eq_true, noCommand_ofBytes_iff]
    rintro (hShort | hZero)
    · omega
    · exact hNonzero (hZero b hMem)
  have hFree : s.blocked p = false := by simp [State.blocked, hReset, hHeld]
  obtain ⟨failed, hBad, hCode⟩ : ∃ failed, (Inbound.ofBytes (wholeBytes sdi)).classify = .bad failed
      ∧ small failed.code = [cause] := by
    obtain ⟨hSync, rfl⟩ | ⟨hSync, hLength, rfl⟩ | ⟨hSync, hMax, hCount, hCheck, rfl⟩ := hCause
    · exact ⟨.sync, classify_badSync hCommand hSync, rfl⟩
    · exact ⟨.length, classify_badLength hCommand hSync hLength, rfl⟩
    · exact ⟨.check, classify_badCheck hCommand hSync hMax hCount hCheck, rfl⟩
  refine ⟨_, chipSelectRise_low span elapsed hTransaction hInbound, ?_⟩
  rw [chipSelectRise_taken span elapsed hTransaction hInbound hCommand hFree, takeInbound_bad p span _ hBad, hCode]

end Sys2Proof.Machine
end

section
/-! The outbound side of a control port (R2, R156 to R158, R189): the CRC-8 as a register, the layout of a frame, and
the codes and data of the events. -/

namespace Sys2Proof.Machine

/-! ### The CRC-8 (R2) -/

theorem crcShift_eq (c : Byte) : crcShift c = (c <<< 1) ^^^ (if c.getLsbD 7 then 0x07 else 0x00) := by
  have hTop : c.msb = c.getLsbD 7 := BitVec.msb_eq_getLsbD_last c
  unfold crcShift
  split <;> simp_all

theorem crc8_append_singleton (bs : List Byte) (b : Byte) : crc8 (bs ++ [b]) = crcByte (crc8 bs) b :=
  List.foldl_concat ..

/-- The check value the rule gives for $31 to $39 (R2). -/
theorem crc8_checkInput : crc8 [0x31, 0x32, 0x33, 0x34, 0x35, 0x36, 0x37, 0x38, 0x39] = 0xF4 := by decide +kernel

/-! ### Frames (R156) -/

theorem idle_frame : OutItem.idle.frame = [0x5C, 0x00, 0x00, 0x00, 0x00, 0x6C] := by decide +kernel

theorem outboundFrame_length (kind second third : Byte) (data : List Byte) :
    (outboundFrame kind second third data).length = data.length + 6 := by
  simp only [outboundFrame, List.length_append, List.length_cons, List.length_nil]; omega

/-- The longest kind-specific data are those of COMMIT_TAKEN (R189). -/
theorem eventDataBytes_length_le (e : EventData) : e.bytes.length ≤ 9 := by
  cases e <;> simp [EventData.bytes, small, nat16, bytes16, bytes32, commitIdBytes, onOff, rowByte, orNone]

theorem eventFrame_length_le (e : EventRecord) : (OutItem.event e).frame.length ≤ 20 := by
  have hData : e.bytes.length = 5 + e.data.bytes.length := by
    simp only [EventRecord.bytes, bytes32, List.length_append, List.length_cons, List.length_nil]
  have hKind := eventDataBytes_length_le e.data
  rw [OutItem.frame, outboundFrame_length]
  omega

theorem sdoByte_past {frame : List Byte} {k : Nat} (h : frame.length ≤ k) : sdoByte frame k = 0 :=
  List.getD_eq_default _ _ h

/-! ### Named values (R189): the code of each is its position in the rule's list -/

theorem code_of_getElem? {α : Type} {code : α → Nat} {names : List α} {x : α} {j : Nat}
    (hInOrder : names.map code = List.range names.length) (h : names[j]? = some x) : code x = j := by
  obtain ⟨hj, rfl⟩ := List.getElem?_eq_some_iff.mp h
  have hCode : (names.map code)[j]? = some (code names[j]) := by rw [List.getElem?_map, h]; rfl
  rw [hInOrder, List.getElem?_range hj] at hCode
  exact (Option.some.inj hCode).symm

theorem linkState_bytes (n : Link) (st : RxState) (on : Bool) :
    (EventData.linkState n st on).bytes = [numByte n, numByte st.code, flagByte on] := rfl

theorem refState_bytes_row (st : SelectorState) (r : RowIx) (why : RefReason) :
    (EventData.refState st (some r) why).bytes = [numByte st.code, rowNumByte r, numByte why.code] := rfl

theorem refState_bytes_noRow (st : SelectorState) (why : RefReason) :
    (EventData.refState st none why).bytes = [numByte st.code, 0xFF, numByte why.code] := rfl

theorem refRequestDropped_bytes (k : RequestKind) (r : RowIx) (p : Port) (why : DropReason) :
    (EventData.refRequestDropped k r p why).bytes = [numByte k.code, rowNumByte r, numByte p, numByte why.code] := rfl

/-- Settles O25: the CRC-8 is its register a byte at a time; frames and the plain data of events are their definitions;
a named value is sent as its position. -/
theorem outboundFramesHaveTheirLayout : Obligations.OutboundFramesHaveTheirLayout := by
  refine ⟨⟨rfl, fun bs b => ?crc, crc8_checkInput⟩, ⟨idle_frame, fun r _ => rfl, fun e => ⟨rfl, eventFrame_length_le e⟩,
    fun i k => sdoByte_past⟩, rfl, fun p n d r k c f late i on => ?events⟩
  case crc => simp only [crc8_append_singleton, crcByte, crcShift_eq]
  case events =>
    refine ⟨⟨rfl, rfl⟩, ⟨rfl, rfl⟩, ⟨rfl, rfl⟩, ⟨rfl, rfl⟩, ⟨rfl, rfl⟩, ⟨rfl, rfl⟩, ⟨rfl, rfl⟩, ⟨rfl, rfl⟩, ?linkState,
      ⟨rfl, rfl⟩, ⟨rfl, rfl⟩, ?refState, ?refRequestDropped, ⟨rfl, rfl⟩, ⟨rfl, rfl⟩, ⟨rfl, rfl⟩, ⟨rfl, rfl⟩⟩
    case linkState =>
      intro j st hState
      rw [← code_of_getElem? (code := RxState.code) rfl hState]
      exact ⟨rfl, linkState_bytes n st on⟩
    case refState =>
      intro j st m why hState hReason
      rw [← code_of_getElem? (code := SelectorState.code) rfl hState,
        ← code_of_getElem? (code := RefReason.code) rfl hReason]
      exact ⟨⟨rfl, refState_bytes_row st r why⟩, rfl, refState_bytes_noRow st why⟩
    case refRequestDropped =>
      intro m why hReason
      rw [← code_of_getElem? (code := DropReason.code) rfl hReason]
      exact ⟨⟨rfl, refRequestDropped_bytes .manual r p why⟩, rfl, refRequestDropped_bytes .force r p why⟩

end Sys2Proof.Machine
end

section
/-! Reading and clearing the counters (R190, R192, R193): the group of counters two bytes name, what is reported of it,
and what a clear sets to 0. -/

namespace Sys2Proof.Machine

/-! ### The group two bytes name (R159, R192) -/

theorem readGroup_link (n : Link) : readGroup 0x00 (numByte n) = some (.link n) := by
  rw [readGroup, if_pos rfl, readLink_numByte]
  rfl

theorem readGroup_port (q : Port) : readGroup 0x01 (numByte q) = some (.port q) := by
  rw [readGroup, if_neg (by decide), if_pos rfl, readPort_numByte]
  rfl

/-- A link or port that the part does not have, or a kind that is neither, names no group. -/
theorem readGroup_none {a b : Byte} (h : a = 0 ∧ 16 ≤ b.toNat ∨ a = 1 ∧ 4 ≤ b.toNat ∨ 1 < a.toNat) :
    readGroup a b = none := by
  obtain ⟨rfl, hLink⟩ | ⟨rfl, hPort⟩ | hKind := h
  · rw [readGroup, if_pos rfl, readLink_none b hLink]
    rfl
  · rw [readGroup, if_neg (by decide), if_pos rfl, readPort_none b hPort]
    rfl
  · have hNotLink : a ≠ 0 := by rintro rfl; exact absurd hKind (by decide)
    have hNotPort : a ≠ 1 := by rintro rfl; exact absurd hKind (by decide)
    rw [readGroup, if_neg hNotLink, if_neg hNotPort]

/-- The bytes that name every group to COUNTERS_CLEAR name no single one (R193). -/
theorem not_everyGroup_of_readGroup {a b : Byte} {g : CounterGroup} (h : readGroup a b = some g) :
    ¬ (a = 0xFF ∧ b = 0) := by
  rintro ⟨rfl, rfl⟩
  rw [readGroup_none (.inr (.inr (by decide)))] at h
  cases h

/-! ### What is reported (R190, R192) -/

theorem countersData_link (s : State) (n : Link) :
    countersData s (.link n)
      = [0x00, numByte n] ++ bytes32 s.timing.frameCounter ++ (linkCounts s n).flatMap bytes16 := rfl

theorem countersData_port (s : State) (q : Port) :
    countersData s (.port q)
      = [0x01, numByte q] ++ bytes32 s.timing.frameCounter ++ (portCounts s q).flatMap bytes16 := rfl

/-- A lease renewed changes neither the frame nor a counter. -/
theorem countersData_leased (p : Port) (s : State) (g : CounterGroup) :
    countersData (leased p s) g = countersData s g := by
  cases g with
  | link n =>
    simp only [countersData_link, linkCounts, leased_timing, leased_receivers, leased_stores, leased_assemblers]
  | port q => simp only [countersData_port, portCounts, leased_timing, leased_ports, leased_mailboxes]

/-! ### What a clear sets to 0 (R193) -/

theorem clearGroup_link (s : State) (n : Link) :
    s.clearGroup (.link n) = { s with
      receivers := s.receivers.modify n Receiver.clearCounters
      stores := s.stores.modify n Store.clearCounters
      assemblers := s.assemblers.modify n Assembler.clearCounters } := rfl

theorem clearGroup_port (s : State) (q : Port) :
    s.clearGroup (.port q) = { s with
      ports := s.ports.modify q PortState.clearCounters
      mailboxes := s.mailboxes.modify q Mailbox.clearCounter } := rfl

/-! ### The handlers, one lemma a case -/

section handlers

variable (s : State) {a b : Byte} {g : CounterGroup}

theorem countersReadHandler_group (h : readGroup a b = some g) :
    countersReadHandler [a, b] s = (s, ok (countersData s g)) := by
  simp only [countersReadHandler, h]

theorem countersReadHandler_noGroup (h : readGroup a b = none) : countersReadHandler [a, b] s = (s, badArg) := by
  simp only [countersReadHandler, h]

theorem countersClearHandler_group (h : readGroup a b = some g) :
    countersClearHandler [a, b] s = (s.clearGroup g, ok (countersData s g)) := by
  simp only [countersClearHandler, if_neg (not_everyGroup_of_readGroup h), h]

theorem countersClearHandler_everyGroup :
    countersClearHandler [0xFF, 0x00] s = (s.clearAllCounters, ok (bytes32 s.timing.frameCounter)) := by
  rw [countersClearHandler, if_pos ⟨rfl, rfl⟩]
  rfl

theorem countersClearHandler_noGroup (h : readGroup a b = none) (hSome : ¬ (a = 0xFF ∧ b = 0)) :
    countersClearHandler [a, b] s = (s, badArg) := by
  simp only [countersClearHandler, if_neg hSome, h]

end handlers

/-! ### The two commands taken: two parameter bytes, a session and the right for COUNTERS_CLEAR alone (R173) -/

section taken

variable {s : State} {p : Port} {a b : Byte} {g : CounterGroup} (tag : Byte) (hReady : Ready p s)
include hReady

theorem countersRead_taken (a b : Byte) :
    exec (.countersRead p tag [a, b]) s = .next (answering p tag (countersReadHandler [a, b] (leased p s)).2
      (countersReadHandler [a, b] (leased p s)).1) :=
  command_taken .countersRead p tag [a, b] s hReady (by simp [Cmd.needsSession]) (by simp [Cmd.needsRight]) rfl

theorem countersClear_taken (hRight : HasRight p s) (a b : Byte) :
    exec (.countersClear p tag [a, b]) s = .next (answering p tag (countersClearHandler [a, b] (leased p s)).2
      (countersClearHandler [a, b] (leased p s)).1) := by
  obtain ⟨hOpen, hPrecedence⟩ := hRight
  exact command_taken .countersClear p tag [a, b] s hReady (fun _ => hOpen) (fun _ => hPrecedence) rfl

/-- COUNTERS_READ of a group reports it as it stands in `s` (R192). -/
theorem countersRead_group (h : readGroup a b = some g) :
    exec (.countersRead p tag [a, b]) s = .next (answering p tag ⟨.ok, countersData s g⟩ (leased p s)) := by
  rw [countersRead_taken tag hReady, countersReadHandler_group _ h, countersData_leased]
  rfl

/-- COUNTERS_CLEAR of a group reports it as it stands in `s`, before the clear (R193). -/
theorem countersClear_group (hRight : HasRight p s) (h : readGroup a b = some g) :
    exec (.countersClear p tag [a, b]) s
      = .next (answering p tag ⟨.ok, countersData s g⟩ ((leased p s).clearGroup g)) := by
  rw [countersClear_taken tag hReady hRight, countersClearHandler_group _ h, countersData_leased]
  rfl

/-- COUNTERS_CLEAR of every group reports the frame alone (R193). -/
theorem countersClear_everyGroup (hRight : HasRight p s) :
    exec (.countersClear p tag [0xFF, 0x00]) s
      = .next (answering p tag ⟨.ok, bytes32 s.timing.frameCounter⟩ (leased p s).clearAllCounters) := by
  rw [countersClear_taken tag hReady hRight, countersClearHandler_everyGroup, leased_timing]
  rfl

end taken

/-- Settles O53: two bytes name a link, a port, every group or none; each command taken is its handler on the leased
state, whose frame and counters are those of `s`. -/
theorem countersAreReadAndCleared : Obligations.CountersAreReadAndCleared := by
  intro s p tag n q hReady
  refine ⟨countersRead_group tag hReady (readGroup_link n), countersRead_group tag hReady (readGroup_port q),
    fun hRight => ⟨?clearLink, ?clearPort, countersClear_everyGroup tag hReady hRight⟩,
    fun a b hNone => ⟨?readNone, fun hRight hSome => ?clearNone⟩⟩
  case clearLink =>
    rw [countersClear_group tag hReady hRight (readGroup_link n), countersData_link, clearGroup_link]
    rfl
  case clearPort =>
    rw [countersClear_group tag hReady hRight (readGroup_port q), countersData_port, clearGroup_port]
    rfl
  case readNone =>
    rw [countersRead_taken tag hReady, countersReadHandler_noGroup _ (readGroup_none hNone)]
    rfl
  case clearNone =>
    rw [countersClear_taken tag hReady hRight, countersClearHandler_noGroup _ (readGroup_none hNone) hSome]
    rfl

end Sys2Proof.Machine
end

section
/-! Footprints: the fields that each block of the part can change, the block that each command goes to, and that no
command changes a field outside its block's footprint. Invariants are settled on the few blocks whose footprint they
look into. -/

namespace Sys2Proof.Machine

/-! ### Blocks and their footprints -/

/-- The block a command goes to, or a group of blocks that one command reaches. -/
inductive Block where
  | reading
  | sessions
  | selector
  | timing
  | changes
  | messages
  | events
  | receivers
  | links
  | counters
  | softReset
  | boundary
  | deviceReset
  | port
  deriving DecidableEq

/-- From `s` to `t` only the fields of the block have changed. Of the last four blocks nothing is said: their commands
reach the whole part. -/
def Block.Frame (b : Block) (s t : State) : Prop :=
  match b with
  | .reading => t = s
  | .sessions => t = { s with
      now := t.now, sessions := t.sessions, claims := t.claims, chmNotices := t.chmNotices, rslNotices := t.rslNotices
      msuNotices := t.msuNotices, evuNotices := t.evuNotices, raised := t.raised }
  | .selector => t = { s with now := t.now, selector := t.selector, rslNotices := t.rslNotices, raised := t.raised }
  | .timing => t = { s with now := t.now, timing := t.timing }
  | .changes => t = { s with
      staging := t.staging, commitQueue := t.commitQueue, commitSeq := t.commitSeq, chmNotices := t.chmNotices
      raised := t.raised }
  | .messages => t = { s with
      subscriptions := t.subscriptions, mailboxes := t.mailboxes, txQueues := t.txQueues, messageIds := t.messageIds
      msuNotices := t.msuNotices, txNotices := t.txNotices, raised := t.raised }
  | .events => t = { s with
      events := t.events, ports := t.ports, evuNotices := t.evuNotices, raised := t.raised }
  | .receivers => t = { s with
      now := t.now, receivers := t.receivers, stores := t.stores, assemblers := t.assemblers, mailboxes := t.mailboxes
      selector := t.selector, raised := t.raised }
  | .links => t = { s with
      now := t.now, receivers := t.receivers, stores := t.stores, assemblers := t.assemblers, mailboxes := t.mailboxes
      transmitters := t.transmitters, txNotices := t.txNotices, selector := t.selector, raised := t.raised }
  | .counters => t = { s with
      receivers := t.receivers, stores := t.stores, assemblers := t.assemblers, mailboxes := t.mailboxes
      ports := t.ports }
  | .softReset | .boundary | .deviceReset | .port => True

/-- The commands of these reach the whole part. -/
def Block.whole : Block → Bool
  | .softReset | .boundary | .deviceReset | .port => true
  | _ => false

/-- The block that takes each command of the catalogue. -/
def Cmd.block : Cmd → Block
  | .ping | .queryOwner | .linkStatus | .readFrame | .refStatus | .readMap | .commitList | .countersRead => .reading
  | .open_ | .close | .claim | .release | .setEventMask => .sessions
  | .refTable | .refLockout | .refMode | .refForce | .refManual | .refClear => .selector
  | .wclkOut => .timing
  | .stage | .unstage | .discard | .stagingRead | .commit | .cancel => .changes
  | .subscribe | .unsubscribe | .fetch | .send => .messages
  | .linkConfig => .links
  | .countersClear => .counters
  | .softReset => .softReset

/-- The block that takes each row of the table; the controllers' commands and the chip select come in at a port. -/
def rowBlock : Instr → Block
  | .deviceReset _ => .deviceReset
  | .outputFrameBoundary => .boundary
  | .wclkOutFall => .timing
  | .qualificationStart _ _ | .qualificationAbandoned _ _ | .qualificationComplete _ | .lossOfSignal _ _
  | .alignmentPatternFound _ _ _ | .confirmFrameArrival _ _ _ _ | .frameArrival _ _ _ _ => .receivers
  | .wclkRisingEdge _ | .wclkMissingInterval | .restoreTimerExpiry _ | .holdoverTimerExpiry
  | .rslSessionEndNotice _ => .selector
  | .leaseExpiry _ => .sessions
  | .chmSessionEndNotice _ => .changes
  | .msuSessionEndNotice _ | .completionNotice _ | .discardNotice _ | .disableNotice _ => .messages
  | .evuSessionEndNotice _ | .raisedEventQueuing _ => .events
  | .softReset (.reach _) => .softReset
  | _ => .port

section frames

theorem Block.Frame.trans {b : Block} {s t u : State} (h : b.Frame s t) (h' : b.Frame t u) : b.Frame s u := by
  cases b
  case softReset | boundary | deviceReset | port => trivial
  all_goals
    rw [Block.Frame] at *
    rw [h', h]

theorem Block.Frame.refl {b : Block} {s : State} : b.Frame s s := by
  cases b
  case softReset | boundary | deviceReset | port => trivial
  all_goals exact rfl

variable (s : State)

/-! ### The selector's operations -/

theorem frame_onSelector (f : Selector → Selector) : Block.selector.Frame s (s.onSelector f) := rfl

theorem frame_recompute : Block.selector.Frame s s.recompute := by
  rw [State.recompute_frame]; rfl

theorem frame_dropRequest (why : DropReason) : Block.selector.Frame s (s.dropRequest why) := by
  rw [State.dropRequest_frame]; rfl

theorem frame_withdraw (why : DropReason) : Block.selector.Frame s (s.withdraw why) := by
  rcases h : s.selector.request with _ | q
  · rw [withdraw_of_none s why h]; exact .refl
  · rw [withdraw_of_some s q why h]; rfl

theorem frame_applyHoldoverLimit (limit : Nat) : Block.selector.Frame s (s.applyHoldoverLimit limit) := by
  rw [State.applyHoldoverLimit_frame]; rfl

theorem frame_placeRequest (k : RequestKind) (r : RowIx) (p : Port) :
    Block.selector.Frame s (placeRequest k r p s).1 := by
  unfold placeRequest
  refine .trans ?_ (frame_recompute _)
  refine .trans ?_ (frame_onSelector _ _)
  split
  · exact .refl
  · exact frame_withdraw s _

theorem frame_ite {b : Block} {s t u : State} {c : Prop} [Decidable c] (ht : b.Frame s t) (hu : b.Frame s u) :
    b.Frame s (if c then t else u) := by
  split
  · exact ht
  · exact hu

/-! ### Handlers -/

variable {c : Cmd} (p : Port) (ps : List Byte) (span : ResetSpan)

theorem handle_of_reading (h : c.block = .reading) : (c.handle p ps span s).1 = s := by
  match c, h with
  | .ping, _ | .refStatus, _ | .commitList, _ => rfl
  | .queryOwner, _ => simp only [Cmd.handle, queryOwnerHandler]; repeat' split
                      all_goals rfl
  | .linkStatus, _ => simp only [Cmd.handle, linkStatusHandler]; repeat' split
                      all_goals rfl
  | .readFrame, _ => simp only [Cmd.handle, readFrameHandler]; repeat' split
                     all_goals rfl
  | .readMap, _ => simp only [Cmd.handle, readMapHandler]; repeat' split
                   all_goals rfl
  | .countersRead, _ => simp only [Cmd.handle, countersReadHandler]; repeat' split
                        all_goals rfl

theorem frame_handle_sessions (h : c.block = .sessions) : Block.sessions.Frame s (c.handle p ps span s).1 := by
  match c, h with
  | .close, _ => rfl
  | .open_, _ => simp only [Cmd.handle, openHandler]; repeat' split
                 all_goals rfl
  | .claim, _ => simp only [Cmd.handle, claimHandler]; repeat' split
                 all_goals rfl
  | .release, _ => simp only [Cmd.handle, releaseHandler]; repeat' split
                   all_goals rfl
  | .setEventMask, _ => simp only [Cmd.handle, setEventMaskHandler]; repeat' split
                        all_goals rfl

theorem frame_refTable : Block.selector.Frame s (refTableHandler ps s).1 := by
  unfold refTableHandler
  repeat' split
  case h_1 =>
    refine .trans (.trans ?_ (frame_onSelector _ _)) (frame_recompute _)
    exact frame_ite (.trans (frame_onSelector s _) (frame_withdraw _ _)) (frame_onSelector s _)
  all_goals exact .refl

theorem frame_refLockout : Block.selector.Frame s (refLockoutHandler ps s).1 := by
  unfold refLockoutHandler
  repeat' split
  case h_1.isFalse =>
    refine .trans ?_ (frame_recompute _)
    exact frame_ite (.trans (frame_onSelector s _) (frame_withdraw _ _)) (frame_onSelector s _)
  all_goals exact .refl

theorem frame_refMode : Block.selector.Frame s (refModeHandler ps s).1 := by
  unfold refModeHandler
  split
  · exact .refl
  · refine frame_ite ?_ (.trans ?_ (frame_recompute _))
    all_goals exact frame_ite (frame_onSelector s _) (.trans (frame_onSelector s _) (frame_applyHoldoverLimit _ _))

theorem frame_refForce : Block.selector.Frame s (refForceHandler p ps s).1 := by
  unfold refForceHandler
  repeat' split
  all_goals first | exact frame_placeRequest s _ _ _ | exact .refl

theorem frame_refManual : Block.selector.Frame s (refManualHandler p ps s).1 := by
  unfold refManualHandler
  repeat' split
  all_goals first | exact frame_placeRequest s _ _ _ | exact .refl

theorem frame_refClear : Block.selector.Frame s (refClearHandler p s).1 := by
  unfold refClearHandler
  repeat' split
  · exact .refl
  · exact .trans (frame_onSelector s _) (frame_recompute _)
  · exact .trans (frame_dropRequest s _) (frame_recompute _)
  · exact .refl

theorem frame_handle_selector (h : c.block = .selector) : Block.selector.Frame s (c.handle p ps span s).1 := by
  match c, h with
  | .refTable, _ => exact frame_refTable s ps
  | .refLockout, _ => exact frame_refLockout s ps
  | .refMode, _ => exact frame_refMode s ps
  | .refForce, _ => exact frame_refForce s p ps
  | .refManual, _ => exact frame_refManual s p ps
  | .refClear, _ => exact frame_refClear s p

theorem frame_handle_timing (h : c.block = .timing) : Block.timing.Frame s (c.handle p ps span s).1 := by
  match c, h with
  | .wclkOut, _ => simp only [Cmd.handle, wclkOutHandler]; repeat' split
                   all_goals rfl

theorem frame_handle_changes (h : c.block = .changes) : Block.changes.Frame s (c.handle p ps span s).1 := by
  match c, h with
  | .discard, _ => rfl
  | .stage, _ => simp only [Cmd.handle, stageHandler]; repeat' split
                 all_goals rfl
  | .unstage, _ => simp only [Cmd.handle, unstageHandler]; repeat' split
                   all_goals rfl
  | .stagingRead, _ => simp only [Cmd.handle, stagingReadHandler]; repeat' split
                       all_goals rfl
  | .commit, _ => simp only [Cmd.handle, commitHandler]; repeat' split
                  all_goals rfl
  | .cancel, _ => simp only [Cmd.handle, cancelHandler]; repeat' split
                  all_goals rfl

theorem frame_handle_messages (h : c.block = .messages) : Block.messages.Frame s (c.handle p ps span s).1 := by
  match c, h with
  | .subscribe, _ => simp only [Cmd.handle, subscribeHandler]; repeat' split
                     all_goals rfl
  | .unsubscribe, _ => simp only [Cmd.handle, unsubscribeHandler]; repeat' split
                       all_goals rfl
  | .fetch, _ => simp only [Cmd.handle, fetchHandler]; repeat' split
                 all_goals rfl
  | .send, _ => simp only [Cmd.handle, sendHandler]; repeat' split
                all_goals rfl

theorem frame_handle_links (h : c.block = .links) : Block.links.Frame s (c.handle p ps span s).1 := by
  match c, h with
  | .linkConfig, _ =>
    simp only [Cmd.handle, linkConfigHandler]; repeat' split
    case h_1 => rw [State.configTransmitter_frame, State.configReceiver_frame]; rfl
    all_goals rfl

theorem frame_handle_counters (h : c.block = .counters) : Block.counters.Frame s (c.handle p ps span s).1 := by
  match c, h with
  | .countersClear, _ =>
    simp only [Cmd.handle, countersClearHandler]
    split
    · split
      · rfl
      · split
        · rfl
        · rw [State.clearGroup_frame]; rfl
    · rfl

/-- No command changes a field outside its block's footprint. -/
theorem frame_handle (c : Cmd) : c.block.Frame s (c.handle p ps span s).1 := by
  cases h : c.block
  case reading => exact handle_of_reading s p ps span h
  case sessions => exact frame_handle_sessions s p ps span h
  case selector => exact frame_handle_selector s p ps span h
  case timing => exact frame_handle_timing s p ps span h
  case changes => exact frame_handle_changes s p ps span h
  case messages => exact frame_handle_messages s p ps span h
  case links => exact frame_handle_links s p ps span h
  case counters => exact frame_handle_counters s p ps span h
  case events | receivers => cases c <;> contradiction
  case softReset | boundary | deviceReset | port => trivial

/-! ### Rows -/

/-- The state that a row of the table answers. -/
def execState (i : Instr) (s : State) : State :=
  match exec i s with
  | .next t => t
  | .fault _ | .refused _ => s

/-- Every row answers a next state (NOTES.md: no command ends in a fault or a refusal). -/
theorem exec_eq_next (i : Instr) : exec i s = .next (execState i s) := by
  cases i <;> rfl

theorem frame_row_timing {i : Instr} (h : rowBlock i = .timing) : Block.timing.Frame s (execState i s) := by
  match i, h with
  | .wclkOutFall, _ => exact frame_ite rfl rfl

theorem frame_row_sessions {i : Instr} (h : rowBlock i = .sessions) : Block.sessions.Frame s (execState i s) := by
  match i, h with
  | .leaseExpiry p, _ =>
    simp only [execState, exec, execLeaseExpiry]
    split <;> rfl

theorem frame_row_changes {i : Instr} (h : rowBlock i = .changes) : Block.changes.Frame s (execState i s) := by
  match i, h with
  | .chmSessionEndNotice p, _ =>
    simp only [execState, exec, execChmSessionEndNotice]
    split <;> rfl

theorem frame_row_messages {i : Instr} (h : rowBlock i = .messages) : Block.messages.Frame s (execState i s) := by
  match i, h with
  | .msuSessionEndNotice p, _ =>
    simp only [execState, exec, execMsuSessionEndNotice]
    split <;> rfl
  | .completionNotice n, _ =>
    simp only [execState, exec, execCompletionNotice]
    split <;> rfl
  | .discardNotice n, _ =>
    simp only [execState, exec, execDiscardNotice]
    split <;> rfl
  | .disableNotice n, _ =>
    simp only [execState, exec, execDisableNotice]
    split <;> rfl

theorem frame_row_events {i : Instr} (h : rowBlock i = .events) : Block.events.Frame s (execState i s) := by
  match i, h with
  | .evuSessionEndNotice p, _ =>
    simp only [execState, exec, execEvuSessionEndNotice]
    split <;> rfl
  | .raisedEventQueuing source, _ =>
    simp only [execState, exec, execRaisedEventQueuing]
    split <;> rfl

theorem frame_hiddenFrom_dropRequest (p : Port) (why : DropReason) :
    Block.selector.Frame s (s.hiddenFrom p fun u => u.dropRequest why) := by
  have h := frame_dropRequest { s with raised := [] } why
  simp only [State.hiddenFrom]
  generalize State.dropRequest why { s with raised := [] } = t at h ⊢
  rw [Block.Frame] at h ⊢
  rw [h]

theorem frame_row_selector {i : Instr} (h : rowBlock i = .selector) : Block.selector.Frame s (execState i s) := by
  match i, h with
  | .wclkRisingEdge e, _ =>
    simp only [execState, exec, execWclkRisingEdge]
    rw [State.reportSources_frame]; rfl
  | .wclkMissingInterval, _ =>
    simp only [execState, exec, execWclkMissingInterval]
    split
    · exact .refl
    · rw [State.reportSources_frame]; rfl
  | .restoreTimerExpiry r, _ =>
    simp only [execState, exec, execRestoreTimerExpiry]
    split
    · rw [State.recompute_frame]; rfl
    · exact .refl
  | .holdoverTimerExpiry, _ =>
    simp only [execState, exec, execHoldoverTimerExpiry]
    split <;> rfl
  | .rslSessionEndNotice p, _ =>
    simp only [execState, exec, execRslSessionEndNotice]
    split
    · exact .refl
    · split
      · refine frame_ite (.trans (.trans ?_ (frame_hiddenFrom_dropRequest _ _ _)) (frame_recompute _)) ?_ <;> rfl
      · rfl

theorem frame_reportSources {t : State} (h : Block.receivers.Frame s t) : Block.receivers.Frame s t.reportSources := by
  refine h.trans ?_
  rw [State.reportSources_frame]; rfl

theorem frame_takeGoodFrame (n : Link) (f : LinkFrame) : Block.receivers.Frame s (s.takeGoodFrame n f) := by
  rw [State.takeGoodFrame_frame]; rfl

theorem frame_takeConcealed (n : Link) (f : Receiver → Receiver) : Block.receivers.Frame s (s.takeConcealed n f) := by
  rw [State.takeConcealed_frame]; rfl

theorem frame_leaveTo (n : Link) (f : Receiver → Receiver) : Block.receivers.Frame s (s.leaveTo n f) := by
  rw [State.leaveTo_frame]; rfl

theorem frame_row_receivers {i : Instr} (h : rowBlock i = .receivers) : Block.receivers.Frame s (execState i s) := by
  match i, h with
  | .qualificationAbandoned n e, _ => rfl
  | .qualificationStart n e, _ => exact frame_ite rfl rfl
  | .alignmentPatternFound n pos e, _ => exact frame_ite rfl rfl
  | .qualificationComplete n, _ =>
    simp only [execState, exec, execQualificationComplete]
    split <;> rfl
  | .lossOfSignal n e, _ =>
    have hLeave (f : Receiver → Receiver) : Block.receivers.Frame s ((s.advance e).leaveTo n f).reportSources := by
      refine frame_reportSources s (.trans ?_ (frame_leaveTo _ n f))
      rfl
    simp only [execState, exec, execLossOfSignal]
    split
    case h_4 | h_5 => rfl
    all_goals exact hLeave _
  | .confirmFrameArrival n pos f e, _ =>
    refine frame_ite (frame_ite (frame_ite rfl ?_) rfl) rfl
    refine frame_reportSources s (.trans ?_ (frame_takeGoodFrame _ n f))
    rfl
  | .frameArrival n pos f e, _ =>
    have hEvent : Block.receivers.Frame s ((s.advance e).onReceiver n (Receiver.referenceEvent (s.advance e).now)) := rfl
    refine frame_ite (frame_reportSources s (frame_ite (frame_ite ?good ?damaged) (frame_ite ?misaligned ?lost))) rfl
    case good => exact hEvent.trans (frame_takeGoodFrame _ n f)
    case damaged | misaligned => exact hEvent.trans (frame_takeConcealed _ n _)
    case lost => exact hEvent.trans (frame_leaveTo _ n _)

/-- No row changes a field outside its block's footprint. -/
theorem frame_row (i : Instr) : (rowBlock i).Frame s (execState i s) := by
  cases h : rowBlock i
  case sessions => exact frame_row_sessions s h
  case selector => exact frame_row_selector s h
  case timing => exact frame_row_timing s h
  case changes => exact frame_row_changes s h
  case messages => exact frame_row_messages s h
  case events => exact frame_row_events s h
  case receivers => exact frame_row_receivers s h
  case softReset | boundary | deviceReset | port => trivial
  case reading | links | counters =>
    unfold rowBlock at h
    split at h <;> contradiction

/-! ### Which commands and rows each block has -/

theorem cmd_of_softReset {c : Cmd} (h : c.block = .softReset) : c = .softReset := by
  match c, h with
  | .softReset, _ => rfl

theorem cmd_not_whole {c : Cmd} (h : c.block ≠ .softReset) : c.block.whole = false := by
  cases c <;> first | rfl | contradiction

theorem cmd_block_ne (c : Cmd) : c.block ≠ .events ∧ c.block ≠ .receivers := by
  cases c <;> decide

theorem row_of_softReset {i : Instr} (h : rowBlock i = .softReset) : ∃ b, i = .softReset (.reach b) := by
  match i, h with
  | .softReset (.reach b), _ => exact ⟨b, rfl⟩

theorem row_of_boundary {i : Instr} (h : rowBlock i = .boundary) : i = .outputFrameBoundary := by
  match i, h with
  | .outputFrameBoundary, _ => rfl

theorem row_of_deviceReset {i : Instr} (h : rowBlock i = .deviceReset) : ∃ straps, i = .deviceReset straps := by
  match i, h with
  | .deviceReset straps, _ => exact ⟨straps, rfl⟩

theorem row_block_ne (i : Instr) : rowBlock i ≠ .links ∧ rowBlock i ≠ .counters := by
  unfold rowBlock
  split <;> decide

end frames
end Sys2Proof.Machine
end

section
/-! What every row keeps: a predicate kept by what a port does with a transaction, by every command's rule, and by
every row that does not come in at a port, is kept by every step. -/

namespace Sys2Proof.Machine

/-! ### The response queue of a port taking a command -/

/-- Only the other ports lose responses to a command, and only by a soft reset (R100). -/
theorem reachBlock_responses (s : State) (b : ResetBlock) (p : Port) :
    ((s.reachBlock b).ports.get p).responses = (s.ports.get p).responses := by
  cases b
  case port q =>
    simp only [State.reachBlock, State.onPort_ports, Tab.get_modify]
    split
    · next h => rw [h]; rfl
    · rfl
  case eventUnit =>
    simp only [State.reachBlock, State.softResetEvents, Tab.get_tabulate]
    rfl
  case selector =>
    simp only [State.reachBlock, State.softResetSelector, State.recompute_ports, State.onSelector_ports]
  all_goals rfl

theorem reachAll_responses (s : State) (p : Port) :
    (s.reachAll.ports.get p).responses = (s.ports.get p).responses := by
  unfold State.reachAll
  induction ResetBlock.all generalizing s with
  | nil => rfl
  | cons b l ih => rw [List.foldl_cons, ih, reachBlock_responses]

theorem softResetHandler_responses (s : State) (p : Port) (span : ResetSpan) :
    ((softResetHandler p span s).1.ports.get p).responses = (s.ports.get p).responses := by
  have hBegun : ((s.beginSoftReset p).ports.get p).responses = (s.ports.get p).responses := by
    simp [State.beginSoftReset, State.softResetSessions, State.emptyOtherResponses]
  cases span with
  | whole => exact (reachAll_responses _ p).trans hBegun
  | begun => exact hBegun

theorem countersClearHandler_responses (s : State) (p : Port) (ps : List Byte) :
    ((countersClearHandler ps s).1.ports.get p).responses = (s.ports.get p).responses := by
  have hGroup (g : CounterGroup) : ((s.clearGroup g).ports.get p).responses = (s.ports.get p).responses := by
    cases g with
    | link n => rfl
    | port q =>
      simp only [State.clearGroup, State.onMailbox_ports, State.onPort_ports, Tab.get_modify]
      split
      · next h => rw [h]; rfl
      · rfl
  have hAll : (s.clearAllCounters.ports.get p).responses = (s.ports.get p).responses := by
    simp only [State.clearAllCounters, Tab.get_map]
    rfl
  unfold countersClearHandler
  split
  · split
    · exact hAll
    · split
      · rfl
      · exact hGroup _
  · rfl

/-- The queue of the port that a command came in at is as it was when the response joins it (R171). -/
theorem handle_responses (s : State) (c : Cmd) (p : Port) (ps : List Byte) (span : ResetSpan) :
    ((c.handle p ps span s).1.ports.get p).responses = (s.ports.get p).responses := by
  have hFrame := frame_handle s p ps span c
  cases h : c.block <;> rw [h] at hFrame
  case counters =>
    match c, h with
    | .countersClear, _ => exact countersClearHandler_responses s p ps
  case softReset =>
    match c, h with
    | .softReset, _ => exact softResetHandler_responses s p span
  case events | boundary | deviceReset | port => cases c <;> contradiction
  all_goals
    rw [Block.Frame] at hFrame
    rw [hFrame]

/-! ### Predicates kept at the ports -/

theorem not_full_iff (c : PortState) : ¬ c.full = true ↔ c.responses.length < 4 := by
  rw [PortState.full, decide_eq_true_iff, Nat.not_le, Config.responseMax]

/-- Kept by what a port does with a transaction or a frame apart from the command in it. A change of a port may count on
the room that its response queue has. -/
structure KeptByPorts (P : State → Prop) : Prop where
  advance : ∀ s e, P s → P (s.advance e)
  renewLease : ∀ s p, P s → P (s.renewLease p)
  onPort : ∀ s p f, P s → ((s.ports.get p).responses.length ≤ 4 → (f (s.ports.get p)).responses.length ≤ 4) →
    P (s.onPort p f)
  settle : ∀ s p t k, P s → P (s.settle p t k)
  beginTransaction : ∀ s p, P s → P (s.beginTransaction p)

/-- A predicate that looks at none of what ports change. -/
theorem keptByPorts_of_quiet {P : State → Prop}
    (h : ∀ {s t : State}, t = { s with now := t.now, sessions := t.sessions, ports := t.ports, events := t.events } →
      P s → P t) : KeptByPorts P where
  advance _ _ := h rfl
  renewLease s p := h (by rw [State.renewLease_frame])
  onPort _ _ _ hs _ := h rfl hs
  settle s p t k := h (by rw [State.settle_frame])
  beginTransaction _ _ := h rfl

/-- Kept also by the commands' own rules, which may count on the session that gating has found. -/
structure KeptAtPorts (P : State → Prop) : Prop extends KeptByPorts P where
  handle : ∀ s c p ps span, P s → (c.needsSession = true → HasSession p s) → P (Cmd.handle c p ps span s).1

namespace KeptAtPorts

variable {P : State → Prop} (K : KeptAtPorts P) {s : State} (h : P s) (p : Port)
include K h

theorem gate (code : Byte) (ps : List Byte) (span : ResetSpan) : P (s.gate p code ps span).1 := by
  unfold State.gate
  split
  · exact h
  · next c _ =>
    split
    · exact h
    · next hGated =>
      have hSession (hNeeds : c.needsSession = true) : HasSession p s := by
        simpa [hNeeds, State.isOpen] using hGated
      repeat' split
      case isFalse.isFalse => exact K.handle s c p ps span h hSession
      all_goals exact h

omit K h in
theorem gate_responses (s : State) (code : Byte) (ps : List Byte) (span : ResetSpan) :
    ((s.gate p code ps span).1.ports.get p).responses = (s.ports.get p).responses := by
  unfold State.gate
  repeat' split
  case h_2.isFalse.isFalse.isFalse => exact handle_responses s _ p ps span
  all_goals rfl

theorem takeFrame (tag code : Byte) (ps : List Byte) (span : ResetSpan) : P (s.takeFrame p tag code ps span) := by
  unfold State.takeFrame
  split
  · exact K.onPort s p _ h id
  · next hRoom =>
    refine K.onPort _ p _ (K.gate (K.renewLease s p h) p code ps span) fun _ => ?_
    have hRoom := (not_full_iff _).mp hRoom
    simp only [PortState.answer, List.length_append, gate_responses]
    rw [State.renewLease_frame]
    exact hRoom

theorem takeInbound (i : Inbound) (span : ResetSpan) : P (s.takeInbound p i span) := by
  unfold State.takeInbound
  split
  · exact h
  · refine K.onPort s p _ h fun hLength => ?_
    unfold PortState.takeBad
    split
    · exact hLength
    · next hRoom => simpa [PortState.answer] using (not_full_iff _).mp hRoom
  · exact K.takeFrame h p _ _ _ span

theorem hold (i : Inbound) : P (s.onPort p (PortState.hold i)) := by
  refine K.onPort s p _ h fun hLength => ?_
  unfold PortState.hold
  split <;> exact hLength

theorem commandArrives (tag : Byte) (c : Cmd) (ps : List Byte) (span : ResetSpan) :
    P (s.commandArrives p tag c ps span) := by
  unfold State.commandArrives
  split
  · exact K.hold h p _
  · exact K.takeFrame h p tag c.code ps span

theorem chipSelectFall (elapsed : Time) : P (execState (.chipSelectFall p elapsed) s) := by
  have hNow := K.advance s elapsed h
  simp only [execState, exec, execChipSelectFall]
  split
  · exact hNow
  · exact K.beginTransaction _ p hNow

theorem chipSelectRise (sdi : List Bool) (span : ResetSpan) (elapsed : Time) :
    P (execState (.chipSelectRise p sdi span elapsed) s) := by
  have hNow := K.advance s elapsed h
  simp only [execState, exec, execChipSelectRise]
  split
  · exact hNow
  · next t _ =>
    have hSettled (k : Nat) : P (((s.advance elapsed).settle p t k).onPort p fun c => { c with transaction := none }) :=
      K.onPort _ p _ (K.settle _ p t k hNow) id
    split
    · exact hSettled _
    · split
      · exact K.hold (hSettled _) p _
      · exact K.takeInbound (hSettled _) p _ span

theorem heldFrameTaken : P (execState (.heldFrameTaken p) s) := by
  simp only [execState, exec, execHeldFrameTaken]
  split
  · exact K.takeInbound (K.onPort s p _ h id) p _ .whole
  · exact h

end KeptAtPorts

/-! ### Predicates kept by every row and every step -/

/-- A row that comes in at a port is the chip select, a held frame, or a command of the catalogue. -/
theorem execState_atPort {i : Instr} (hPort : rowBlock i = .port) (s : State) :
    (∃ p e, i = .chipSelectFall p e) ∨ (∃ p sdi span e, i = .chipSelectRise p sdi span e) ∨ (∃ p, i = .heldFrameTaken p)
      ∨ ∃ p tag c ps span, execState i s = s.commandArrives p tag c ps span := by
  cases i
  case chipSelectFall p e => exact .inl ⟨p, e, rfl⟩
  case chipSelectRise p sdi span e => exact .inr (.inl ⟨p, sdi, span, e, rfl⟩)
  case heldFrameTaken p => exact .inr (.inr (.inl ⟨p, rfl⟩))
  case softReset stage =>
    cases stage with
    | command p tag ps span => exact .inr (.inr (.inr ⟨p, tag, .softReset, ps, span, rfl⟩))
    | reach b => contradiction
  all_goals first
    | contradiction
    | exact .inr (.inr (.inr ⟨_, _, _, _, .whole, rfl⟩))

theorem execState_keeps {P : State → Prop} (K : KeptAtPorts P)
    (hRow : ∀ i s, rowBlock i ≠ .port → P s → P (execState i s)) (i : Instr) {s : State} (h : P s) :
    P (execState i s) := by
  by_cases hPort : rowBlock i = .port
  · obtain ⟨p, e, rfl⟩ | ⟨p, sdi, span, e, rfl⟩ | ⟨p, rfl⟩ | ⟨p, tag, c, ps, span, hArrives⟩ := execState_atPort hPort s
    · exact K.chipSelectFall h p e
    · exact K.chipSelectRise h p sdi span e
    · exact K.heldFrameTaken h p
    · rw [hArrives]
      exact K.commandArrives h p tag c ps span
  · exact hRow i s hPort h

/-! ### Predicates kept by every block, and every step -/

/-- Kept by every command and row of the blocks that `own` names, by the resets and the boundary, and, since it looks at
no field outside those blocks' footprints, by every other block. -/
structure KeptByBlocks (own : Block → Bool) (P : State → Prop) : Prop where
  frame : ∀ {b s t}, b.Frame s t → own b = false → b.whole = false → P s → P t
  handle : ∀ s c p ps span, own c.block = true → P s → (c.needsSession = true → HasSession p s) →
    P (Cmd.handle c p ps span s).1
  row : ∀ s i, own (rowBlock i) = true → P s → P (execState i s)
  beginSoftReset : ∀ s p, P s → P (s.beginSoftReset p)
  reachBlock : ∀ s b, P s → P (s.reachBlock b)
  boundary : ∀ s, P s → P (execState .outputFrameBoundary s)
  initial : ∀ straps, P (State.initial straps)
  waiting : ∀ s l q, P s → P { s with resetToReach := l, pending := q }

namespace KeptByBlocks

variable {own : Block → Bool} {P : State → Prop} (B : KeptByBlocks own P)
include B

theorem reachAll {s : State} (h : P s) : P s.reachAll := by
  unfold State.reachAll
  induction ResetBlock.all generalizing s with
  | nil => exact h
  | cons b l ih => exact ih (B.reachBlock s b h)

theorem anyHandle (s : State) (c : Cmd) (p : Port) (ps : List Byte) (span : ResetSpan) (h : P s)
    (hSession : c.needsSession = true → HasSession p s) : P (c.handle p ps span s).1 := by
  by_cases hReset : c.block = .softReset
  · rw [cmd_of_softReset hReset]
    have hBegun := B.beginSoftReset s p h
    cases span with
    | whole => exact B.reachAll hBegun
    | begun => exact B.waiting _ _ _ hBegun
  · cases hOwn : own c.block
    · exact B.frame (frame_handle s p ps span c) hOwn (cmd_not_whole hReset) h
    · exact B.handle s c p ps span hOwn h hSession

theorem anyRow (i : Instr) (s : State) (hPort : rowBlock i ≠ .port) (h : P s) : P (execState i s) := by
  cases hWhole : (rowBlock i).whole
  · cases hOwn : own (rowBlock i)
    · exact B.frame (frame_row s i) hOwn hWhole h
    · exact B.row s i hOwn h
  · cases hBlock : rowBlock i <;> rw [hBlock] at hWhole <;> try contradiction
    case boundary =>
      rw [row_of_boundary hBlock]
      exact B.boundary s h
    case deviceReset =>
      obtain ⟨straps, rfl⟩ := row_of_deviceReset hBlock
      exact B.waiting _ [] s.pending (B.initial straps)
    case softReset =>
      obtain ⟨b, rfl⟩ := row_of_softReset hBlock
      simp only [execState, exec, execSoftReset]
      split
      · exact B.waiting _ _ _ (B.reachBlock s b h)
      · exact h

/-- A predicate that ports and blocks keep is kept by every step. -/
theorem step (K : KeptByPorts P) {s t : State} (h : P s) (hStep : step s = .next t) : P t := by
  unfold Machine.step at hStep
  split at hStep
  · exact Host.Outcome.next.inj hStep ▸ h
  · next c rest _ =>
    rw [exec_eq_next] at hStep
    exact Host.Outcome.next.inj hStep ▸ execState_keeps { K with handle := B.anyHandle } B.anyRow c
      (B.waiting s s.resetToReach rest h)

end KeptByBlocks

end Sys2Proof.Machine
end

section
/-! The queue of commands, and the state after device reset. -/

namespace Sys2Proof.Machine

/-! ### The queue of commands -/

/-- Settles O1: by definition, in each of the two cases. -/
theorem stepTakesTheFrontCommand : Obligations.StepTakesTheFrontCommand := by
  refine ⟨fun c rest s h => ?_, fun s h => ?_⟩
  all_goals
    unfold step
    rw [h]

theorem pending_of_frame {b : Block} {s t : State} (hFrame : b.Frame s t)
    (hWhole : b.whole = false) : t.pending = s.pending := by
  cases b
  case softReset | boundary | deviceReset | port => contradiction
  all_goals
    rw [Block.Frame] at hFrame
    rw [hFrame]

theorem pending_boundary (s : State) : (execState .outputFrameBoundary s).pending = s.pending := by
  simp [execState, exec, execOutputFrameBoundary]

theorem pending_softReset (s : State) (p : Port) (span : ResetSpan) :
    (softResetHandler p span s).1.pending = s.pending := by
  cases span with
  | whole => exact State.reachAll_pending _
  | begun => rfl

theorem pending_handle (s : State) (c : Cmd) (p : Port) (ps : List Byte) (span : ResetSpan) :
    (c.handle p ps span s).1.pending = s.pending := by
  by_cases hReset : c.block = .softReset
  · rw [cmd_of_softReset hReset]
    exact pending_softReset s p span
  · exact pending_of_frame (frame_handle s p ps span c) (cmd_not_whole hReset)

theorem keptAtPorts_pending (q : List Instr) : KeptAtPorts fun s => s.pending = q where
  advance _ _ h := h
  renewLease s p h := by rw [State.renewLease_frame]; exact h
  handle s c p ps span h _ := (pending_handle s c p ps span).trans h
  onPort _ _ _ h _ := h
  settle s p t k h := by rw [State.settle_frame]; exact h
  beginTransaction _ _ h := h

/-- Settles O2: every row is answered with a next state, and no block's footprint holds the queue of commands. -/
theorem everyCommandAnswersANextState : Obligations.EveryCommandAnswersANextState := by
  intro c s
  refine ⟨execState c s, exec_eq_next s c, ?_⟩
  refine execState_keeps (keptAtPorts_pending s.pending) (fun i u hPort h => ?_) c rfl
  cases hBlock : rowBlock i
  case port => contradiction
  case boundary => rw [row_of_boundary hBlock, pending_boundary, h]
  case deviceReset =>
    obtain ⟨straps, rfl⟩ := row_of_deviceReset hBlock
    exact h
  case softReset =>
    obtain ⟨b, rfl⟩ := row_of_softReset hBlock
    simp only [execState, exec, execSoftReset]
    split
    · exact (u.reachBlock_pending b).trans h
    · exact h
  all_goals exact (pending_of_frame (frame_row u i) (by rw [hBlock]; decide)).trans h

/-! ### Device reset -/

theorem precedenceOf_val (x : Strap) :
    ((precedenceOf x : Fin 4) : Nat) = (if x.prec1 then 2 else 0) + (if x.prec0 then 1 else 0) := by
  obtain ⟨a, b⟩ := x
  cases a <;> cases b <;> rfl

/-- Settles O3: field by field, from the state of every rule for device reset. -/
theorem deviceResetLeavesTheStatedState : Obligations.DeviceResetLeavesTheStatedState := by
  intro straps s
  refine ⟨_, rfl, ?_⟩
  simp [State.initial, FrameTiming.initial, Receiver.initial, Store.initial, Transmitter.initial, Selector.initial,
    CandidateRow.initial, WclkMonitor.initial, MapEntry.initial, Session.initial, Staging.initial, Assembler.initial,
    Mailbox.initial, PortState.initial, RefClock.initial, EventMask.all, attentionLow, State.transmittedGrade,
    precedenceOf_val]

end Sys2Proof.Machine
end

section
/-! Event queues (R178): what joins and what leaves a queue keeps its form, and only the Event Unit, a port's chip
select and the resets touch one. -/

namespace Sys2Proof.Machine

/-! ### One queue -/

theorem eventQueueLegal_nil : EventQueueLegal [] := ⟨by simp, by simp, by simp⟩

theorem eventQueueLegal_append_singleton (q : List EventRecord) (r : EventRecord) :
    EventQueueLegal (q ++ [r]) ↔ q.length ≤ 31 ∧ (q.length = 31 → r.isLost = true) ∧ ∀ x ∈ q, x.isLost = false := by
  simp only [EventQueueLegal, List.length_append, List.length_singleton, List.dropLast_concat, List.getLast?_concat,
    Option.map_some, Option.some.injEq, Nat.reduceEqDiff, Nat.reduceLeDiff]
  exact ⟨fun ⟨hLength, hLost, hLast⟩ => ⟨by omega, hLast, hLost⟩, fun ⟨hLength, hLast, hLost⟩ => ⟨by omega, hLost, hLast⟩⟩

theorem eventQueueLegal_of_noneLost {q : List EventRecord} (hLength : q.length ≤ 31) (hLost : ∀ x ∈ q, x.isLost = false) :
    EventQueueLegal q :=
  ⟨by omega, fun x hx => hLost x (List.dropLast_subset q hx), by omega⟩

/-- Records that leave a queue leave a legal queue (R185, R186). -/
theorem EventQueueLegal.sublist {q r : List EventRecord} (h : EventQueueLegal q) (hr : r.Sublist q) :
    EventQueueLegal r := by
  rcases q.eq_nil_or_concat with rfl | ⟨init, last, rfl⟩
  · rw [List.sublist_nil.mp hr]
    exact eventQueueLegal_nil
  rw [List.concat_eq_append] at h hr
  obtain ⟨hLength, hLast, hLost⟩ := (eventQueueLegal_append_singleton init last).mp h
  obtain ⟨kept, tail, rfl, hKept, hTail⟩ := List.sublist_append_iff.mp hr
  have hKeptLost (x : EventRecord) (hx : x ∈ kept) : x.isLost = false := hLost x (hKept.subset hx)
  have hKeptLength := hKept.length_le
  rcases List.sublist_singleton.mp hTail with rfl | rfl
  · rw [List.append_nil]
    exact eventQueueLegal_of_noneLost (by omega) hKeptLost
  · exact (eventQueueLegal_append_singleton kept last).mpr ⟨by omega, fun h31 => hLast (by omega), hKeptLost⟩

theorem isLost_countLost (r : EventRecord) : r.countLost.isLost = r.isLost := by
  unfold EventRecord.countLost
  split
  · next c h => simp only [EventRecord.isLost, h]
  · rfl

/-- A further lost copy is counted in its record (R181). -/
theorem EventQueueLegal.countLost {q : List EventRecord} (h : EventQueueLegal q) :
    EventQueueLegal (q.map EventRecord.countLost) := by
  rcases q.eq_nil_or_concat with rfl | ⟨init, last, rfl⟩
  · exact h
  rw [List.concat_eq_append] at h ⊢
  obtain ⟨hLength, hLast, hLost⟩ := (eventQueueLegal_append_singleton init last).mp h
  rw [List.map_append, List.map_singleton, eventQueueLegal_append_singleton, List.length_map, isLost_countLost]
  refine ⟨hLength, hLast, fun x hx => ?_⟩
  obtain ⟨y, hy, rfl⟩ := List.mem_map.mp hx
  rw [isLost_countLost, hLost y hy]

/-- A copy joins a queue, or is counted as lost (R180). -/
theorem EventQueueLegal.queueCopy {q : List EventRecord} (h : EventQueueLegal q) (number : SessionNo) (frame : FrameNo)
    (data : EventData) : EventQueueLegal (queueCopy number frame data q) := by
  have hKept : EventQueueLegal (currentRecords number q) := h.sublist List.filter_sublist
  unfold Machine.queueCopy
  generalize currentRecords number q = kept at hKept ⊢
  simp only
  split
  · exact hKept.countLost
  · next hNone =>
    have hLost (x : EventRecord) (hx : x ∈ kept) : x.isLost = false := by
      simpa using fun hx' => hNone (List.any_eq_true.mpr ⟨x, hx, hx'⟩)
    obtain ⟨hLength, -, hFull⟩ := hKept
    have hRoom : kept.length ≠ 32 := by
      intro h32
      obtain ⟨x, hx, hxLost⟩ := Option.map_eq_some_iff.mp (hFull h32)
      rw [hLost x (List.mem_of_getLast? hx)] at hxLost
      contradiction
    split
    · next hShort =>
      have hShort : kept.length < 31 := hShort
      exact (eventQueueLegal_append_singleton kept _).mpr ⟨by omega, by omega, hLost⟩
    · exact (eventQueueLegal_append_singleton kept _).mpr ⟨by omega, fun _ => rfl, hLost⟩

/-- The head of a queue leaves it when it was delivered, or stays with what was lost since (R162, R181). -/
theorem EventQueueLegal.deliverHead {q : List EventRecord} (h : EventQueueLegal q) (sent : EventRecord) (now : FrameNo) :
    EventQueueLegal (deliverHead sent now q) := by
  unfold Machine.deliverHead
  split
  · exact h
  · next head rest =>
    have hRest : EventQueueLegal rest := h.sublist (List.sublist_cons_self head rest)
    split
    · next c d _ hHead =>
      split
      · exact hRest
      · have hOnly : rest = [] := by
          by_contra hSome
          obtain ⟨-, hLost, -⟩ := h
          have := hLost head (by rw [List.dropLast_cons_of_ne_nil hSome]; exact List.mem_cons_self)
          simp [EventRecord.isLost, hHead] at this
        rw [hOnly]
        exact (eventQueueLegal_append_singleton [] _).mpr ⟨by simp, by simp, by simp⟩
    · exact hRest

/-! ### The four queues -/

theorem EventQueuesLegal.queueRaised {s : State} (h : EventQueuesLegal s) (ev : RaisedEvent) :
    EventQueuesLegal (s.queueRaised ev) := by
  intro p
  simp only [State.queueRaised, Tab.get_tabulate, State.queueAfter]
  split
  · exact (h p).queueCopy _ _ _
  · exact h p

theorem EventQueuesLegal.drainRaised {s : State} (h : EventQueuesLegal s) : EventQueuesLegal s.drainRaised := by
  unfold State.drainRaised
  have hStart : EventQueuesLegal { s with raised := [] } := h
  generalize ({ s with raised := [] } : State) = t at hStart
  induction s.raised generalizing t with
  | nil => exact hStart
  | cons ev l ih => exact ih _ (hStart.queueRaised ev)

theorem EventQueuesLegal.modify {s t : State} (h : EventQueuesLegal s) (p : Port) {f : List EventRecord → List EventRecord}
    (hf : EventQueueLegal (f (s.events.get p))) (ht : t.events = s.events.modify p f) : EventQueuesLegal t := by
  intro q
  rw [ht, Tab.get_modify]
  split
  · exact hf
  · exact h q

theorem EventQueuesLegal.freshEvents {s : State} (h : EventQueuesLegal s) (p : Port) :
    EventQueueLegal (s.freshEvents p) := by
  unfold State.freshEvents
  split
  · exact (h p).sublist (List.dropWhile_sublist _)
  · exact eventQueueLegal_nil

theorem EventQueuesLegal.beginTransaction {s : State} (h : EventQueuesLegal s) (p : Port) :
    EventQueuesLegal (s.beginTransaction p) := by
  intro q
  simp only [State.beginTransaction, State.onPort_events]
  split
  · rw [Tab.get_put]
    split
    · exact h.freshEvents p
    · exact h q
  · exact h q

theorem EventQueuesLegal.settle {s : State} (h : EventQueuesLegal s) (p : Port) (t : Transaction) (k : Nat) :
    EventQueuesLegal (s.settle p t k) := by
  unfold State.settle
  repeat' split
  case h_3.isTrue => exact h.modify p ((h p).deliverHead _ _) rfl
  all_goals exact h

theorem EventQueuesLegal.reachBlock {s : State} (h : EventQueuesLegal s) (b : ResetBlock) :
    EventQueuesLegal (s.reachBlock b) := by
  cases b
  case eventUnit =>
    intro p
    simp only [State.reachBlock, State.softResetEvents, Tab.get_fill]
    exact eventQueueLegal_nil
  case selector =>
    intro p
    simp only [State.reachBlock, State.softResetSelector, State.recompute_events, State.onSelector_events]
    exact h p
  all_goals exact h

/-! ### Every step -/

theorem keptByPorts_eventQueuesLegal : KeptByPorts EventQueuesLegal where
  advance _ _ h := h
  renewLease s p h := by rw [State.renewLease_frame]; exact h
  onPort _ _ _ h _ := h
  settle _ p t k h := h.settle p t k
  beginTransaction _ p h := h.beginTransaction p

theorem eventQueuesLegal_row_events {i : Instr} (hBlock : rowBlock i = .events) {s : State} (h : EventQueuesLegal s) :
    EventQueuesLegal (execState i s) := by
  match i, hBlock with
  | .raisedEventQueuing source, _ =>
    simp only [execState, exec, execRaisedEventQueuing]
    split
    · exact h
    · next ev rest _ => exact EventQueuesLegal.queueRaised (s := { s with raised := rest }) h ev
  | .evuSessionEndNotice p, _ =>
    simp only [execState, exec, execEvuSessionEndNotice]
    split
    · exact h
    · exact h.modify p ((h p).sublist List.filter_sublist) rfl

theorem EventQueuesLegal.boundary {s : State} (h : EventQueuesLegal s) :
    EventQueuesLegal (execState .outputFrameBoundary s) := by
  have hEvents : (execState .outputFrameBoundary s).events = s.drainRaised.events := by
    simp [execState, exec, execOutputFrameBoundary]
  intro p
  rw [hEvents]
  exact h.drainRaised p

theorem keptByBlocks_eventQueuesLegal : KeptByBlocks (· == .events) EventQueuesLegal where
  frame {b s t} hFrame hOwn hWhole h := by
    cases b <;> first | contradiction | (rw [Block.Frame] at hFrame; rw [hFrame]; exact h)
  handle s c p ps span hOwn h _ := absurd (eq_of_beq hOwn) (cmd_block_ne c).1
  row s i hOwn h := eventQueuesLegal_row_events (eq_of_beq hOwn) h
  beginSoftReset _ _ h := h
  reachBlock _ b h := h.reachBlock b
  boundary _ h := h.boundary
  initial straps p := by
    simp only [State.initial, Tab.get_fill]
    exact eventQueueLegal_nil
  waiting _ _ _ h := h

/-- Settles O56: each operation on a queue keeps its form, and no other block's footprint holds the queues. -/
theorem everyStepKeepsTheEventQueuesLegal : Obligations.EveryStepKeepsTheEventQueuesLegal :=
  fun _ _ => keptByBlocks_eventQueuesLegal.step keptByPorts_eventQueuesLegal

end Sys2Proof.Machine
end

section
/-! Claims (R93): only the Session and Claim Unit and the resets touch the Claim Table, a session ends only with its
claims released, and a claim is made only under an open session. -/

namespace Sys2Proof.Machine

/-- What makes a claim legal is the Claim Table, and which sessions are open under which number. -/
theorem ClaimsHeldByOpenSessions.congr {s t : State} (h : ClaimsHeldByOpenSessions s) (hClaims : t.claims = s.claims)
    (hSessions : ∀ p, (t.sessions.get p).isOpen = (s.sessions.get p).isOpen
      ∧ (t.sessions.get p).number = (s.sessions.get p).number) : ClaimsHeldByOpenSessions t := by
  intro d w hOwner
  obtain ⟨hOpen, hNumber⟩ := hSessions w.port
  rw [hClaims] at hOwner
  rw [hOpen, hNumber]
  exact h d w hOwner

/-! ### Sessions ending and beginning (R84, R90) -/

theorem claims_teardown (s : State) (p : Port) (why : EndReason) (d : Dest) (w : Owner) :
    (s.teardown p why).claims.get d = some w ↔ s.claims.get d = some w ∧ w.port ≠ p := by
  rw [teardown_eq_tornDown]
  simp only [tornDown, Tab.get_tabulate]
  rcases s.claims.get d with _ | v
  · simp
  · simp only [Option.map_some, Option.some.injEq]
    split
    · next hPort => simp only [reduceCtorEq, false_iff, not_and, not_not]; rintro rfl; exact hPort
    · next hPort => simpa only [Option.some.injEq, iff_self_and] using fun e => e ▸ hPort

theorem ClaimsHeldByOpenSessions.teardown {s : State} (h : ClaimsHeldByOpenSessions s) (p : Port) (why : EndReason) :
    ClaimsHeldByOpenSessions (s.teardown p why) := by
  intro d w hOwner
  obtain ⟨hBefore, hOther⟩ := (claims_teardown s p why d w).mp hOwner
  rw [teardown_eq_tornDown]
  simp only [tornDown, Tab.get_modify, if_neg hOther]
  exact h d w hBefore

/-- A port that owns nothing may open: it has no claim under its old number (R84). -/
theorem ClaimsHeldByOpenSessions.openRow {s : State} (h : ClaimsHeldByOpenSessions s) (p : Port) (lease : Nat)
    (hNone : ∀ d w, s.claims.get d = some w → w.port ≠ p) : ClaimsHeldByOpenSessions (s.openRow p lease).1 := by
  intro d w hOwner
  have hOther := hNone d w hOwner
  rw [openRow_fst_eq_opened]
  simp only [opened, Tab.get_modify, if_neg hOther]
  exact h d w hOwner

/-! ### The Session and Claim Unit's commands -/

theorem ClaimsHeldByOpenSessions.openHandler {s : State} (h : ClaimsHeldByOpenSessions s) (p : Port) (ps : List Byte) :
    ClaimsHeldByOpenSessions (openHandler p ps s).1 := by
  simp only [Machine.openHandler]
  repeat' split
  case h_2.isFalse.isTrue.isTrue =>
    exact (h.teardown p .replaced).openRow p _ fun d w hOwner => ((claims_teardown s p _ d w).mp hOwner).2
  case h_2.isFalse.isFalse =>
    next hClosed =>
    refine h.openRow p _ ?_
    rintro d w hOwner rfl
    exact hClosed (h d w hOwner).1
  all_goals exact h

theorem ClaimsHeldByOpenSessions.claimHandler {s : State} (h : ClaimsHeldByOpenSessions s) {p : Port}
    (hOpen : HasSession p s) (ps : List Byte) : ClaimsHeldByOpenSessions (claimHandler p ps s).1 := by
  have hOwn (d : Dest) (w : Owner) (hw : some (⟨p, s.sessionNo p⟩ : Owner) = some w) :
      (s.sessions.get w.port).isOpen = true ∧ (s.sessions.get w.port).number = w.session := by
    cases hw
    exact ⟨hOpen, rfl⟩
  have hClaimed (first last : Nat) (l : List RaisedEvent) :
      ClaimsHeldByOpenSessions { s with claims := claimed s p first last, raised := l } := by
    intro d w
    simp only [claimed, Tab.get_tabulate]
    split
    · split
      · next v hBefore =>
        split
        · intro hw; exact h d w (hBefore.trans hw)
        · exact hOwn d w
      · exact hOwn d w
    · exact h d w
  simp only [Machine.claimHandler]
  repeat' split
  all_goals first | exact h | exact hClaimed _ _ _

theorem ClaimsHeldByOpenSessions.releaseHandler {s : State} (h : ClaimsHeldByOpenSessions s) (p : Port)
    (ps : List Byte) : ClaimsHeldByOpenSessions (releaseHandler p ps s).1 := by
  unfold Machine.releaseHandler
  repeat' split
  case h_1.isFalse =>
    intro d w
    simp only [released, Tab.get_tabulate]
    split
    · unfold releaseOwner
      split
      · next v hBefore =>
        split
        · intro hw; contradiction
        · intro hw; exact h d w (hBefore.trans hw)
      · intro hw; contradiction
    · exact h d w
  all_goals exact h

theorem sessions_onSession (s : State) (p q : Port) (f : Session → Session) (hOpen : ∀ r, (f r).isOpen = r.isOpen)
    (hNumber : ∀ r, (f r).number = r.number) : ((s.onSession p f).sessions.get q).isOpen = (s.sessions.get q).isOpen
      ∧ ((s.onSession p f).sessions.get q).number = (s.sessions.get q).number := by
  rw [State.onSession_sessions, Tab.get_modify]
  split
  · next hPort => rw [hOpen, hNumber, hPort]; exact ⟨rfl, rfl⟩
  · exact ⟨rfl, rfl⟩

theorem ClaimsHeldByOpenSessions.setEventMaskHandler {s : State} (h : ClaimsHeldByOpenSessions s) (p : Port)
    (ps : List Byte) : ClaimsHeldByOpenSessions (setEventMaskHandler p ps s).1 := by
  unfold Machine.setEventMaskHandler
  repeat' split
  case h_2 => exact h.congr rfl fun q => sessions_onSession s p q _ (fun _ => rfl) (fun _ => rfl)
  all_goals exact h

theorem ClaimsHeldByOpenSessions.handle_sessions {s : State} (h : ClaimsHeldByOpenSessions s) {c : Cmd}
    (hBlock : c.block = .sessions) (p : Port) (ps : List Byte) (span : ResetSpan)
    (hSession : c.needsSession = true → HasSession p s) : ClaimsHeldByOpenSessions (c.handle p ps span s).1 := by
  match c, hBlock with
  | .open_, _ => exact h.openHandler p ps
  | .close, _ => exact h.teardown p .closed
  | .claim, _ => exact h.claimHandler (hSession rfl) ps
  | .release, _ => exact h.releaseHandler p ps
  | .setEventMask, _ => exact h.setEventMaskHandler p ps

/-! ### Soft reset, and every step -/

theorem ClaimsHeldByOpenSessions.reachBlock {s : State} (h : ClaimsHeldByOpenSessions s) (b : ResetBlock) :
    ClaimsHeldByOpenSessions (s.reachBlock b) :=
  h.congr (s.reachBlock_claims b) fun p => by rw [State.reachBlock_sessions]; exact ⟨rfl, rfl⟩

theorem claimsHeld_beginSoftReset (s : State) (p : Port) : ClaimsHeldByOpenSessions (s.beginSoftReset p) := by
  intro d w hOwner
  simp [State.beginSoftReset, State.softResetSessions] at hOwner

theorem ClaimsHeldByOpenSessions.boundary {s : State} (h : ClaimsHeldByOpenSessions s) :
    ClaimsHeldByOpenSessions (execState .outputFrameBoundary s) := by
  have hClaims : (execState .outputFrameBoundary s).claims = s.claims := by
    simp [execState, exec, execOutputFrameBoundary]
  have hSessions : (execState .outputFrameBoundary s).sessions = s.sessions := by
    simp [execState, exec, execOutputFrameBoundary]
  exact h.congr hClaims fun p => by rw [hSessions]; exact ⟨rfl, rfl⟩

theorem keptByPorts_claimsHeld : KeptByPorts ClaimsHeldByOpenSessions where
  advance _ _ h := h
  renewLease s p h := by
    refine h.congr (by rw [State.renewLease_frame]) fun q => ?_
    unfold State.renewLease
    split
    · exact sessions_onSession s p q _ (fun _ => rfl) (fun _ => rfl)
    · exact ⟨rfl, rfl⟩
  onPort _ _ _ h _ := h
  settle s p t k h := by rw [State.settle_frame]; exact h
  beginTransaction _ _ h := h

theorem ClaimsHeldByOpenSessions.leaseExpiry {s : State} (h : ClaimsHeldByOpenSessions s) (p : Port) :
    ClaimsHeldByOpenSessions (execState (.leaseExpiry p) s) := by
  simp only [execState, exec, execLeaseExpiry]
  split
  · exact ClaimsHeldByOpenSessions.teardown (s := s.advanceTo _) h p .lapsed
  · exact h

theorem keptByBlocks_claimsHeld : KeptByBlocks (· == .sessions) ClaimsHeldByOpenSessions where
  frame {b s t} hFrame hOwn hWhole h := by
    cases b <;> first | contradiction | (rw [Block.Frame] at hFrame; rw [hFrame]; exact h)
  handle s c p ps span hOwn h hSession := h.handle_sessions (eq_of_beq hOwn) p ps span hSession
  row s i hOwn h := by
    match i, eq_of_beq hOwn with
    | .leaseExpiry p, _ => exact h.leaseExpiry p
  beginSoftReset s p _ := claimsHeld_beginSoftReset s p
  reachBlock _ b h := h.reachBlock b
  boundary _ h := h.boundary
  initial straps d w hOwner := by simp [State.initial] at hOwner
  waiting _ _ _ h := h

/-- Settles O57: the claims of a session end with it, and outside the Session and Claim Unit only the resets touch the
Claim Table. -/
theorem everyStepKeepsClaimsWithOpenSessions : Obligations.EveryStepKeepsClaimsWithOpenSessions :=
  fun _ _ => keptByBlocks_claimsHeld.step keptByPorts_claimsHeld

end Sys2Proof.Machine
end

section
/-! Fades (R62, R105): a record read is within range wherever it goes, and a fade begins and advances within it. -/

namespace Sys2Proof.Machine

/-! ### What an operation takes from a list -/

theorem takeFirst_sublist {α : Type} {f : α → Bool} {l rest : List α} {x : α} (h : takeFirst f l = some (x, rest)) :
    rest.Sublist l := by
  induction l generalizing rest with
  | nil => simp [takeFirst] at h
  | cons y ys ih =>
    simp only [takeFirst] at h
    split at h
    · cases h
      exact List.sublist_cons_self _ _
    · split at h
      · next z zs hRest =>
        cases h
        exact (ih hRest).cons_cons y
      · contradiction

theorem mem_insertSet {x y : ChangeSet} {q : List ChangeSet} (h : y ∈ insertSet x q) : y = x ∨ y ∈ q := by
  obtain ⟨before, behind, rfl, -, -, hInsert, -⟩ := insertSet_split x q
  rw [hInsert] at h
  simp only [List.mem_append, List.mem_cons] at h ⊢
  tauto

theorem mem_placeRecord {r x : ChangeRecord} {rs : List ChangeRecord} (h : x ∈ placeRecord r rs) : x = r ∨ x ∈ rs := by
  unfold placeRecord at h
  split at h
  · obtain ⟨y, hy, rfl⟩ := List.mem_map.mp h
    split
    · exact .inl rfl
    · exact .inr hy
  · simpa [or_comm] using h

/-! ### Records (R105) -/

theorem readParts_fade {b : Byte} {rest : List Byte} {source : Option (Source × Nat)} {m v : Option Bool}
    (h : readParts b rest = some (source, m, v)) {x : Source} {f : Nat} (hSource : source = some (x, f)) : f ≤ 4095 := by
  subst hSource
  unfold readParts at h
  split at h
  · contradiction
  · simp only [Option.bind_eq_some_iff] at h
    obtain ⟨⟨part, r1⟩, hPart, ⟨mute, r2⟩, -, ⟨invert, r3⟩, -, hEnd⟩ := h
    have hPartEq : part = some (x, f) := by
      split at hEnd
      · cases hEnd; rfl
      · contradiction
    subst hPartEq
    split at hPart
    · split at hPart
      · simp only [Option.bind_eq_some_iff] at hPart
        obtain ⟨y, -, hRange⟩ := hPart
        split at hRange
        · cases hRange; assumption
        · contradiction
      · contradiction
    · cases hPart

theorem readRecord_legal {ps : List Byte} {r : ChangeRecord} (h : readRecord ps = some r) : RecordLegal r := by
  unfold readRecord at h
  split at h
  · obtain ⟨⟨source, m, v⟩, hParts, rfl⟩ := Option.map_eq_some_iff.mp h
    exact fun x f => readParts_fade hParts
  · contradiction

/-! ### Entries (R67, R70 to R75) -/

theorem FadeLegal.apply {e : MapEntry} (h : FadeLegal e) {r : ChangeRecord} (hr : RecordLegal r) :
    FadeLegal (e.apply r) := by
  have hSource : FadeLegal (e.applySource r.source) := by
    unfold MapEntry.applySource
    split
    · exact h
    · next x f hPart =>
      split
      · exact h
      · next hOther =>
        split
        · intro g hg; contradiction
        · next hLength =>
          intro g hg
          cases hg
          exact ⟨Ne.symm hOther, Nat.one_le_iff_ne_zero.mpr hLength, hr x f hPart, Nat.pos_of_ne_zero hLength⟩
  exact hSource

theorem FadeLegal.advance {e : MapEntry} (h : FadeLegal e) : FadeLegal e.advance := by
  unfold MapEntry.advance
  split
  · exact h
  · next f hFade =>
    obtain ⟨hSources, hLow, hHigh, -⟩ := h f hFade
    split
    · next hShort =>
      intro g hg
      cases hg
      exact ⟨hSources, hLow, hHigh, hShort⟩
    · intro g hg; contradiction

theorem FadeLegal.applyRecords {m : Tab 256 MapEntry} (h : ∀ d, FadeLegal (m.get d)) {rs : List ChangeRecord}
    (hr : ∀ r ∈ rs, RecordLegal r) (d : Dest) : FadeLegal ((applyRecords rs m).get d) := by
  unfold Machine.applyRecords
  induction rs generalizing m with
  | nil => exact h d
  | cons r rs ih =>
    refine ih (fun d => ?_) fun x hx => hr x (List.mem_cons_of_mem r hx)
    rw [applyRecord, Tab.get_modify]
    split
    · exact (h r.dest).apply (hr r List.mem_cons_self)
    · exact h d

/-! ### The whole part -/

/-- Staging sets and commit queue hold legal records alone. -/
abbrev StagedLegal (staging : Tab 4 Staging) : Prop := ∀ p, ∀ r ∈ (staging.get p).records, RecordLegal r

abbrev QueuedLegal (q : List ChangeSet) : Prop := ∀ x ∈ q, ∀ r ∈ x.records, RecordLegal r

theorem StagedLegal.modify {staging : Tab 4 Staging} (h : StagedLegal staging) (p : Port) {f : Staging → Staging}
    (hf : ∀ r ∈ (f (staging.get p)).records, RecordLegal r) : StagedLegal (staging.modify p f) := by
  intro q
  rw [Tab.get_modify]
  split
  · exact hf
  · exact h q

theorem FadesLegal.onStaging {s : State} (h : FadesLegal s) (p : Port) {f : Staging → Staging}
    (hf : ∀ r ∈ (f (s.staging.get p)).records, RecordLegal r) : FadesLegal (s.onStaging p f) :=
  ⟨h.1, StagedLegal.modify h.2.1 p hf, h.2.2⟩

theorem FadesLegal.freshStaging {s : State} (h : FadesLegal s) (p : Port) : FadesLegal (s.freshStaging p) := by
  refine h.onStaging p ?_
  unfold Staging.fresh
  split
  · intro r hr; contradiction
  · exact h.2.1 p

theorem FadesLegal.stageHandler {s : State} (h : FadesLegal s) (p : Port) (ps : List Byte) :
    FadesLegal (stageHandler p ps s).1 := by
  have hFresh := h.freshStaging p
  simp only [Machine.stageHandler]
  split
  · exact hFresh
  · next r hRead =>
    split
    · exact hFresh
    · split
      · exact hFresh
      · refine hFresh.onStaging p fun x hx => ?_
        rcases mem_placeRecord hx with rfl | hx
        · exact readRecord_legal hRead
        · exact hFresh.2.1 p x hx

theorem FadesLegal.unstageHandler {s : State} (h : FadesLegal s) (p : Port) (ps : List Byte) :
    FadesLegal (unstageHandler p ps s).1 := by
  have hFresh := h.freshStaging p
  simp only [Machine.unstageHandler]
  split
  · split
    · exact hFresh
    · refine hFresh.onStaging p ?_
      unfold Staging.keep
      split
      · intro r hr; contradiction
      · exact fun r hr => hFresh.2.1 p r (List.mem_of_mem_filter hr)
  · exact h

theorem FadesLegal.commitHandler {s : State} (h : FadesLegal s) (p : Port) (ps : List Byte) :
    FadesLegal (commitHandler p ps s).1 := by
  have hFresh := h.freshStaging p
  have hCommitted (x : ChangeSet) (l : Tab 4 (BitVec 16)) (hx : x.records = ((s.freshStaging p).staging.get p).records) :
      FadesLegal { s.freshStaging p with
        commitSeq := l, commitQueue := insertSet x (s.freshStaging p).commitQueue
        staging := (s.freshStaging p).staging.put p Staging.initial } := by
    refine ⟨hFresh.1, StagedLegal.modify hFresh.2.1 p (f := fun _ => Staging.initial) (by simp [Staging.initial]), ?_⟩
    intro y hy
    rcases mem_insertSet hy with rfl | hy
    · rw [hx]; exact hFresh.2.1 p
    · exact hFresh.2.2 y hy
  simp only [Machine.commitHandler]
  repeat' split
  all_goals first | exact h | exact hFresh | exact hCommitted _ _ rfl

theorem FadesLegal.cancelHandler {s : State} (h : FadesLegal s) (p : Port) (ps : List Byte) :
    FadesLegal (cancelHandler p ps s).1 := by
  simp only [Machine.cancelHandler]
  repeat' split
  case h_2 =>
    next hTaken => exact ⟨h.1, h.2.1, fun x hx => h.2.2 x ((takeFirst_sublist hTaken).subset hx)⟩
  all_goals exact h

theorem FadesLegal.handle_changes {s : State} (h : FadesLegal s) {c : Cmd} (hBlock : c.block = .changes) (p : Port)
    (ps : List Byte) (span : ResetSpan) : FadesLegal (c.handle p ps span s).1 := by
  match c, hBlock with
  | .stage, _ => exact h.stageHandler p ps
  | .unstage, _ => exact h.unstageHandler p ps
  | .discard, _ => exact (h.freshStaging p).onStaging p (by simp [Staging.initial])
  | .stagingRead, _ =>
    simp only [Cmd.handle, stagingReadHandler]
    repeat' split
    all_goals first | exact h | exact h.freshStaging p
  | .commit, _ => exact h.commitHandler p ps
  | .cancel, _ => exact h.cancelHandler p ps

theorem FadesLegal.chmSessionEndNotice {s : State} (h : FadesLegal s) (p : Port) :
    FadesLegal (execState (.chmSessionEndNotice p) s) := by
  simp only [execState, exec, execChmSessionEndNotice]
  split
  · exact h
  · refine ⟨h.1, StagedLegal.modify h.2.1 p ?_, fun x hx => h.2.2 x (List.mem_of_mem_filter hx)⟩
    split
    · simp [Staging.initial]
    · exact h.2.1 p

theorem FadesLegal.reachBlock {s : State} (h : FadesLegal s) (b : ResetBlock) : FadesLegal (s.reachBlock b) := by
  cases b
  case map =>
    refine ⟨fun d => ?_, h.2⟩
    simp only [State.reachBlock, Tab.get_map]
    intro f hf
    contradiction
  case changeManager =>
    refine ⟨h.1, fun p r hr => ?_, fun x hx => by contradiction⟩
    simp [State.reachBlock, State.softResetChanges, Staging.initial] at hr
  case selector =>
    have hFrame : Block.selector.Frame s s.softResetSelector := .trans (frame_onSelector s _) (frame_recompute _)
    rw [Block.Frame] at hFrame
    rw [State.reachBlock, hFrame]
    exact h
  all_goals exact h

/-- A boundary applies the head set to the map, and advances every fade (R64, R122). -/
theorem FadesLegal.take {s : State} (h : FadesLegal s) : FadesLegal s.take := by
  obtain ⟨hMap, hStaged, hQueued⟩ := h
  unfold State.take
  split
  · exact ⟨hMap, hStaged, hQueued⟩
  · next x rest hQueue =>
    have hRest : QueuedLegal rest := fun y hy => hQueued y (by rw [hQueue]; exact List.mem_cons_of_mem x hy)
    have hHead : ∀ r ∈ x.records, RecordLegal r := hQueued x (by rw [hQueue]; exact List.mem_cons_self)
    split
    · exact ⟨hMap, hStaged, hQueued⟩
    · simp only
      split
      · unfold State.rejectSet
        split <;> exact ⟨hMap, hStaged, hRest⟩
      · exact ⟨FadeLegal.applyRecords hMap hHead, hStaged, hRest⟩

theorem FadesLegal.computeMap {s : State} (h : FadesLegal s) : FadesLegal s.computeMap := by
  refine ⟨fun d => ?_, h.2⟩
  simp only [State.computeMap, Tab.get_map]
  refine FadeLegal.advance ?_
  exact h.1 d

theorem FadesLegal.boundary {s : State} (h : FadesLegal s) : FadesLegal (execState .outputFrameBoundary s) := by
  have hStart : FadesLegal s.drainRaised.beginFrame.selectorBoundary.fixFrame.readStores := by
    simpa [FadesLegal] using h
  have hTaken := hStart.take.computeMap
  show FadesLegal (State.transmit _)
  simpa only [FadesLegal, State.transmit_activeMap, State.transmit_staging, State.transmit_commitQueue] using hTaken

/-! ### Every step -/

theorem keptByBlocks_fadesLegal : KeptByBlocks (· == .changes) FadesLegal where
  frame {b s t} hFrame hOwn hWhole h := by
    cases b <;> first | contradiction | (rw [Block.Frame] at hFrame; rw [hFrame]; exact h)
  handle s c p ps span hOwn h _ := h.handle_changes (eq_of_beq hOwn) p ps span
  row s i hOwn h := by
    match i, eq_of_beq hOwn with
    | .chmSessionEndNotice p, _ => exact h.chmSessionEndNotice p
  beginSoftReset _ _ h := h
  reachBlock _ b h := h.reachBlock b
  boundary _ h := h.boundary
  initial straps := by simp [State.initial, FadesLegal, FadeLegal, MapEntry.initial, Staging.initial]
  waiting _ _ _ h := h

/-- Settles O60: fades begin and advance within R62, and the records they begin from were read within R105. -/
theorem everyStepKeepsTheFadesLegal : Obligations.EveryStepKeepsTheFadesLegal :=
  fun _ _ => keptByBlocks_fadesLegal.step (keptByPorts_of_quiet fun hQuiet h => by rw [hQuiet]; exact h)

end Sys2Proof.Machine
end

section
/-! Links (R7, R8, R12, R14, R24, R28): what the operations of a link make of its receiver and its store, and that the
two stay bound to one another. -/

namespace Sys2Proof.Machine

/-! ### Receivers and stores after each operation -/

@[simp] theorem windowFrame_receivers (s : State) (n : Link) (bad : Bool) :
    (s.windowFrame n bad).receivers = s.receivers.modify n (Receiver.window bad) := by
  unfold State.windowFrame
  simp only
  split <;> rfl

@[simp] theorem appendFrame_stores (s : State) (n : Link) (f : Samples) :
    (s.appendFrame n f).stores = s.stores.modify n fun e => (e.append f).store := by
  unfold State.appendFrame
  simp only
  split <;> rfl

@[simp] theorem takeGoodFrame_receivers (s : State) (n : Link) (f : LinkFrame) :
    (s.takeGoodFrame n f).receivers
      = (s.receivers.modify n (Receiver.takeGood f s.frame)).modify n (Receiver.window false) := by
  simp [State.takeGoodFrame]

@[simp] theorem takeGoodFrame_stores (s : State) (n : Link) (f : LinkFrame) :
    (s.takeGoodFrame n f).stores = s.stores.modify n fun e => (e.append (LinkFrame.samples f)).store := by
  simp [State.takeGoodFrame]

@[simp] theorem takeConcealed_receivers (s : State) (n : Link) (f : Receiver → Receiver) :
    (s.takeConcealed n f).receivers = (s.receivers.modify n f).modify n (Receiver.window true) := by
  simp [State.takeConcealed]

@[simp] theorem takeConcealed_stores (s : State) (n : Link) (f : Receiver → Receiver) :
    (s.takeConcealed n f).stores = s.stores.modify n fun e => (e.append (s.receivers.get n).concealed).store := by
  simp [State.takeConcealed]

@[simp] theorem leaveTo_receivers (s : State) (n : Link) (f : Receiver → Receiver) :
    (s.leaveTo n f).receivers = s.receivers.modify n f := by
  unfold State.leaveTo State.raiseLinkState
  simp only
  split <;> simp

@[simp] theorem leaveTo_stores (s : State) (n : Link) (f : Receiver → Receiver) :
    (s.leaveTo n f).stores
      = if (s.receivers.get n).state = .inFrame then s.stores.modify n Store.release else s.stores := by
  unfold State.leaveTo State.raiseLinkState
  simp only
  split <;> simp

/-! ### One receiver and one store -/

@[simp] theorem window_state (bad : Bool) (r : Receiver) : (r.window bad).state = r.state := by
  unfold Receiver.window
  simp only
  split <;> rfl

@[simp] theorem window_lastGood (bad : Bool) (r : Receiver) : (r.window bad).lastGood = r.lastGood := by
  unfold Receiver.window
  simp only
  split <;> rfl

@[simp] theorem slip_state (e : Store) : e.slip.store.state = e.state := by
  unfold Store.slip
  split <;> rfl

@[simp] theorem append_state (f : Samples) (e : Store) : (e.append f).store.state = e.state := by
  unfold Store.append
  split
  · rfl
  · rw [slip_state]

/-- A boundary's read begins RUNNING, and neither enters nor leaves IDLE (R16). -/
theorem boundary_idle_iff (e : Store) : e.boundary.store.state = .idle ↔ e.state = .idle := by
  simp only [Store.boundary, Store.countdown, Store.read]
  split <;> simp_all

theorem boundary_of_idle {e : Store} (h : e.state = .idle) :
    e.boundary.store.frames = e.frames ∧ e.boundary.store.lastRead = e.lastRead := by
  simp [Store.boundary, Store.countdown, Store.read, h]

theorem leave_state (target : RxState) (r : Receiver) : (r.leave target).state = target := rfl

/-! ### A receiver bound to its store -/

/-- What R6 to R8, R11, R12 and R14 ask of a receiver and its store. -/
structure LinkLegal (r : Receiver) (e : Store) : Prop where
  lastGood : r.state = .inFrame → r.lastGood.isSome = true
  outside : r.state ≠ .inFrame → r.degraded = false ∧ r.grade = 7
  idle_iff : e.state = .idle ↔ r.state ≠ .inFrame
  idle : e.state = .idle → e.frames = [] ∧ e.lastRead = none

/-- Every receiver is bound to its store. -/
def LinksLegal (s : State) : Prop := ∀ n, LinkLegal (s.receivers.get n) (s.stores.get n)

theorem linksLegal_iff (s : State) : LinksLegal s ↔ ReceiversLegal s ∧ StoresFollowReceivers s :=
  ⟨fun h => ⟨fun n => ⟨(h n).lastGood, (h n).outside⟩, fun n => ⟨(h n).idle_iff, (h n).idle⟩⟩,
    fun ⟨hr, he⟩ n => ⟨(hr n).1, (hr n).2, (he n).1, (he n).2⟩⟩

theorem linkLegal_inFrame {r : Receiver} {e : Store} (hState : r.state = .inFrame) (hGood : r.lastGood.isSome = true)
    (hStore : e.state ≠ .idle) : LinkLegal r e :=
  ⟨fun _ => hGood, fun h => absurd hState h, by simp [hState, hStore], fun h => absurd h hStore⟩

theorem linkLegal_outside {r : Receiver} {e : Store} (hState : r.state ≠ .inFrame)
    (hReceiver : r.degraded = false ∧ r.grade = 7) (hStore : e.state = .idle ∧ e.frames = [] ∧ e.lastRead = none) :
    LinkLegal r e :=
  ⟨fun h => absurd h hState, fun _ => hReceiver, by simp [hState, hStore.1], fun _ => hStore.2⟩

theorem LinkLegal.store_of_outside {r : Receiver} {e : Store} (h : LinkLegal r e) (hState : r.state ≠ .inFrame) :
    e.state = .idle ∧ e.frames = [] ∧ e.lastRead = none :=
  ⟨h.idle_iff.mpr hState, h.idle (h.idle_iff.mpr hState)⟩

/-- A receiver's change that looks at none of the bound fields. -/
theorem LinkLegal.receiver {r r' : Receiver} {e : Store} (h : LinkLegal r e) (hState : r'.state = r.state)
    (hGood : r'.lastGood = r.lastGood) (hDegraded : r'.degraded = r.degraded) (hGrade : r'.grade = r.grade) :
    LinkLegal r' e := by
  obtain ⟨h1, h2, h3, h4⟩ := h
  constructor <;> simpa only [hState, hGood, hDegraded, hGrade]

/-- A move between states outside IN_FRAME. -/
theorem LinkLegal.move {r r' : Receiver} {e : Store} (h : LinkLegal r e) (hState : r.state ≠ .inFrame)
    (hState' : r'.state ≠ .inFrame) (hDegraded : r'.degraded = r.degraded) (hGrade : r'.grade = r.grade) :
    LinkLegal r' e :=
  linkLegal_outside hState' (by rw [hDegraded, hGrade]; exact h.outside hState) (h.store_of_outside hState)

/-- In IN_FRAME a receiver may take frames, and its store append them. -/
theorem LinkLegal.takes {r r' : Receiver} {e e' : Store} (h : LinkLegal r e) (hState : r.state = .inFrame)
    (hState' : r'.state = .inFrame) (hGood : r.lastGood.isSome = true → r'.lastGood.isSome = true)
    (hStore : e'.state = e.state) : LinkLegal r' e' :=
  linkLegal_inFrame hState' (hGood (h.lastGood hState)) (by rw [hStore, Ne, h.idle_iff]; simpa using hState)

/-! ### The links of the part -/

/-- An operation on one link, its receiver and its store given. -/
theorem LinksLegal.onLink {s t : State} (h : LinksLegal s) (n : Link) {f : Receiver → Receiver} {g : Store → Store}
    (hReceivers : t.receivers = s.receivers.modify n f) (hStores : t.stores = s.stores.modify n g)
    (hLink : LinkLegal (f (s.receivers.get n)) (g (s.stores.get n))) : LinksLegal t := by
  intro m
  rw [hReceivers, hStores, Tab.get_modify, Tab.get_modify]
  split
  · exact hLink
  · exact h m

theorem LinksLegal.onReceiver {s : State} (h : LinksLegal s) (n : Link) {f : Receiver → Receiver}
    (hLink : LinkLegal (f (s.receivers.get n)) (s.stores.get n)) : LinksLegal (s.onReceiver n f) := by
  intro m
  rw [State.onReceiver_receivers, State.onReceiver_stores, Tab.get_modify]
  split
  · next hm => rw [hm]; exact hLink
  · exact h m

theorem LinksLegal.congr {s t : State} (h : LinksLegal s) (hReceivers : t.receivers = s.receivers)
    (hStores : t.stores = s.stores) : LinksLegal t := by
  intro m
  rw [hReceivers, hStores]
  exact h m

theorem LinksLegal.reportSources {s : State} (h : LinksLegal s) : LinksLegal s.reportSources :=
  h.congr s.reportSources_receivers s.reportSources_stores

theorem tab_modify_modify {n : Nat} {α : Type} (t : Tab n α) (i : Fin n) (f g : α → α) :
    (t.modify i f).modify i g = t.modify i (g ∘ f) := by
  refine Tab.ext_get fun j => ?_
  simp only [Tab.get_modify, if_true, Function.comp]
  split <;> rfl

theorem LinksLegal.takeGoodFrame {s : State} (h : LinksLegal s) {n : Link} (hState : (s.receivers.get n).state = .inFrame)
    (f : LinkFrame) : LinksLegal (s.takeGoodFrame n f) := by
  refine h.onLink n (takeGoodFrame_receivers s n f ▸ tab_modify_modify _ _ _ _) (takeGoodFrame_stores s n f) ?_
  exact (h n).takes hState (by simpa [Receiver.takeGood] using hState) (fun _ => by simp [Receiver.takeGood]) (by simp)

theorem LinksLegal.takeConcealed {s : State} (h : LinksLegal s) {n : Link}
    (hState : (s.receivers.get n).state = .inFrame) {f : Receiver → Receiver}
    (hf : ∀ r, (f r).state = r.state ∧ (f r).lastGood = r.lastGood) : LinksLegal (s.takeConcealed n f) := by
  refine h.onLink n (takeConcealed_receivers s n f ▸ tab_modify_modify _ _ _ _) (takeConcealed_stores s n f) ?_
  exact (h n).takes hState (by simp [hf, hState]) (by simp [hf]) (by simp)

/-- Leaving for a state outside IN_FRAME (R4, R7, R14). -/
theorem LinksLegal.leaveTo {s : State} (h : LinksLegal s) {n : Link} {f : Receiver → Receiver}
    (hState : (f (s.receivers.get n)).state ≠ .inFrame)
    (hReceiver : (f (s.receivers.get n)).degraded = false ∧ (f (s.receivers.get n)).grade = 7) :
    LinksLegal (s.leaveTo n f) := by
  by_cases hWas : (s.receivers.get n).state = .inFrame
  · refine h.onLink n (leaveTo_receivers s n f) (by rw [leaveTo_stores, if_pos hWas]) ?_
    exact linkLegal_outside hState hReceiver ⟨rfl, rfl, rfl⟩
  · have hKept := h.onReceiver n (f := f) (linkLegal_outside hState hReceiver ((h n).store_of_outside hWas))
    exact hKept.congr (leaveTo_receivers s n f) (by rw [leaveTo_stores, if_neg hWas]; rfl)

/-- Leaving by R4 or R7 clears what a receiver outside IN_FRAME does not have. -/
theorem LinkLegal.leave {r : Receiver} {e : Store} (h : LinkLegal r e) (target : RxState) :
    (r.leave target).degraded = false ∧ (r.leave target).grade = 7 := by
  unfold Receiver.leave
  by_cases hState : r.state = .inFrame
  · simp only [if_pos hState]
    exact ⟨rfl, rfl⟩
  · simp only [if_neg hState]
    exact h.outside hState

/-- Entering IN_FRAME with the first good frame (R6, R8, R14). -/
theorem LinksLegal.enters {s t : State} (h : LinksLegal s) (n : Link) (f : Receiver → Receiver) (frame : LinkFrame)
    (hState : ∀ r, (f r).state = .inFrame)
    (hReceivers : t.receivers = s.receivers.modify n f) (hStores : t.stores = s.stores.modify n Store.center) :
    LinksLegal (t.takeGoodFrame n frame) := by
  refine h.onLink n (f := Receiver.window false ∘ Receiver.takeGood frame t.frame ∘ f)
    (g := (fun e => (e.append (LinkFrame.samples frame)).store) ∘ Store.center) ?receivers ?stores ?link
  case receivers => rw [takeGoodFrame_receivers, hReceivers, tab_modify_modify, tab_modify_modify]; rfl
  case stores => rw [takeGoodFrame_stores, hStores, tab_modify_modify]
  case link =>
    refine linkLegal_inFrame ?_ ?_ ?_
    · simpa [Receiver.takeGood] using hState _
    · simp [Receiver.takeGood]
    · simp [Store.center]

/-- A frame at the held position, whatever its class (R7). -/
theorem LinksLegal.frameArrival {s : State} (h : LinksLegal s) (n : Link) (pos : BitPos) (f : LinkFrame) (e : Time) :
    LinksLegal (execState (.frameArrival n pos f e) s) := by
  have hNow : LinksLegal (s.advance e) := h
  simp only [execState, exec, execFrameArrival]
  split
  · next hAt =>
    obtain ⟨hState, -⟩ := hAt
    have hEvent := hNow.onReceiver n (f := Receiver.referenceEvent (s.now + e)) ((h n).receiver rfl rfl rfl rfl)
    have hStill : (((s.advance e).onReceiver n (Receiver.referenceEvent (s.now + e))).receivers.get n).state = .inFrame := by
      simpa [Receiver.referenceEvent] using hState
    refine LinksLegal.reportSources ?_
    split
    · split
      · exact hEvent.takeGoodFrame hStill f
      · exact hEvent.takeConcealed hStill fun _ => ⟨rfl, rfl⟩
    · split
      · exact hEvent.takeConcealed hStill fun _ => ⟨rfl, rfl⟩
      · exact hEvent.leaveTo (by simp [leave_state])
          (((hEvent n).receiver (r' := Receiver.takeMisaligned _) rfl rfl rfl rfl).leave .search)
  · exact hNow

/-- A frame at the candidate position (R6). -/
theorem LinksLegal.confirmFrameArrival {s : State} (h : LinksLegal s) (n : Link) (pos : BitPos) (f : LinkFrame)
    (e : Time) : LinksLegal (execState (.confirmFrameArrival n pos f e) s) := by
  have hNow : LinksLegal (s.advance e) := h
  simp only [execState, exec, execConfirmFrameArrival]
  split
  · next hAt =>
    obtain ⟨hState, -⟩ := hAt
    split
    · split
      · exact hNow.onReceiver n ((h n).receiver rfl rfl rfl rfl)
      · exact (hNow.enters n (fun r =>
          { r.enterInFrame.referenceEvent (s.now + e) with confirmCount := 3 }) f (fun _ => rfl) rfl rfl).reportSources
    · exact hNow.onReceiver n ((h n).move (by simpa using hState ▸ by decide) (by simp) rfl rfl)
  · exact hNow

theorem linksLegal_row {i : Instr} (hBlock : rowBlock i = .receivers) {s : State} (h : LinksLegal s) :
    LinksLegal (execState i s) := by
  have hNow (e : Time) : LinksLegal (s.advance e) := h
  match i, hBlock with
  | .qualificationAbandoned n e, _ => exact (hNow e).onReceiver n ((h n).receiver rfl rfl rfl rfl)
  | .qualificationStart n e, _ =>
    simp only [execState, exec, execQualificationStart]
    split
    · exact (hNow e).onReceiver n ((h n).receiver rfl rfl rfl rfl)
    · exact hNow e
  | .qualificationComplete n, _ =>
    simp only [execState, exec, execQualificationComplete]
    split
    · next hState _ =>
      exact h.onReceiver n ((h n).move (by simp [hState]) (by simp) rfl rfl)
    · exact h
  | .alignmentPatternFound n pos e, _ =>
    simp only [execState, exec, execAlignmentPatternFound]
    split
    · next hState =>
      exact (hNow e).onReceiver n ((h n).move (by simpa using hState ▸ by decide) (by simp) rfl rfl)
    · exact hNow e
  | .lossOfSignal n e, _ =>
    have hLost := ((hNow e).leaveTo (n := n) (f := fun r =>
      { r.leave .noSignal with counters := { r.counters with lossOfSignal := bump r.counters.lossOfSignal } })
      (by simp [leave_state]) ((h n).leave .noSignal)).reportSources
    simp only [execState, exec, execLossOfSignal]
    split
    case h_4 | h_5 => exact hNow e
    all_goals exact hLost
  | .confirmFrameArrival n pos f e, _ => exact h.confirmFrameArrival n pos f e
  | .frameArrival n pos f e, _ => exact h.frameArrival n pos f e

/-! ### LINK_CONFIG, the resets and the boundary -/

theorem LinksLegal.configReceiver {s : State} (h : LinksLegal s) (n : Link) (on : Bool) :
    LinksLegal (s.configReceiver n on) := by
  have hDisabled := (h.leaveTo (n := n) (f := Receiver.disable) (by simp [Receiver.disable]) ⟨rfl, rfl⟩).reportSources
  unfold State.configReceiver
  split
  · next hState => exact h.onReceiver n ((h n).move (by simp [hState]) (by simp) rfl rfl)
  · exact h
  · exact h
  · exact hDisabled

theorem LinksLegal.counters {s : State} (h : LinksLegal s) {c : Cmd} (hBlock : c.block = .counters) (p : Port)
    (ps : List Byte) (span : ResetSpan) : LinksLegal (c.handle p ps span s).1 := by
  have hCleared {r : Receiver} {e : Store} (hl : LinkLegal r e) : LinkLegal r.clearCounters e.clearCounters :=
    ⟨hl.lastGood, hl.outside, hl.idle_iff, hl.idle⟩
  have hGroup (g : CounterGroup) : LinksLegal (s.clearGroup g) := by
    cases g with
    | link n => exact h.onLink n rfl rfl (hCleared (h n))
    | port q => exact h
  have hAll : LinksLegal s.clearAllCounters := by
    intro n
    simp only [State.clearAllCounters, Tab.get_map]
    exact hCleared (h n)
  match c, hBlock with
  | .countersClear, _ =>
    simp only [Cmd.handle, countersClearHandler]
    repeat' split
    all_goals first | exact h | exact hAll | exact hGroup _

theorem LinksLegal.reachBlock {s : State} (h : LinksLegal s) (b : ResetBlock) : LinksLegal (s.reachBlock b) := by
  cases b
  case receiver n =>
    exact h.onLink n (f := Receiver.clearCounters) (g := Store.clearCounters) rfl rfl
      ⟨(h n).lastGood, (h n).outside, (h n).idle_iff, (h n).idle⟩
  case selector =>
    exact h.congr (by simp [State.reachBlock, State.softResetSelector])
      (by simp [State.reachBlock, State.softResetSelector])
  all_goals exact h

theorem LinksLegal.boundary {s : State} (h : LinksLegal s) : LinksLegal (execState .outputFrameBoundary s) := by
  have hReceivers : (execState .outputFrameBoundary s).receivers = s.receivers := by
    simp [execState, exec, execOutputFrameBoundary]
  have hStores : (execState .outputFrameBoundary s).stores = s.stores.map fun e => e.boundary.store := by
    simp [execState, exec, execOutputFrameBoundary, State.readStores]
  intro n
  rw [hReceivers, hStores, Tab.get_map]
  obtain ⟨hGood, hOutside, hIdleIff, hIdle⟩ := h n
  refine ⟨hGood, hOutside, by rw [boundary_idle_iff, hIdleIff], fun hStore => ?_⟩
  have hWas := (boundary_idle_iff _).mp hStore
  obtain ⟨hFrames, hLast⟩ := boundary_of_idle hWas
  rw [hFrames, hLast]
  exact hIdle hWas

/-! ### Transmitters (R24, R28) -/

/-- A transmitter that is not ACTIVE sends nothing. -/
def TransmitterLegal (t : Transmitter) : Prop := t.state ≠ .active → t.sending = .idle ∧ t.line = none

theorem onlyActiveTransmittersSend_modify {s t : State} (h : OnlyActiveTransmittersSend s) (n : Link)
    {f : Transmitter → Transmitter} (ht : t.transmitters = s.transmitters.modify n f)
    (hf : TransmitterLegal (f (s.transmitters.get n))) : OnlyActiveTransmittersSend t := by
  intro m
  rw [ht, Tab.get_modify]
  split
  · exact hf
  · exact h m

theorem onlyActiveTransmittersSend_configTransmitter {s : State} (h : OnlyActiveTransmittersSend s) (n : Link)
    (on : Bool) : OnlyActiveTransmittersSend (s.configTransmitter n on) := by
  unfold State.configTransmitter
  simp only
  split
  · exact onlyActiveTransmittersSend_modify h n
      (f := fun _ => ⟨.waiting, .idle, none, (s.transmitters.get n).level⟩) rfl fun _ => ⟨rfl, rfl⟩
  · exact h
  · exact h
  · exact onlyActiveTransmittersSend_modify h n (f := fun _ => ⟨.off, .idle, none, s.lineLevel n s.now⟩) rfl
      fun _ => ⟨rfl, rfl⟩

theorem onlyActiveTransmittersSend_reachBlock {s : State} (h : OnlyActiveTransmittersSend s) (b : ResetBlock) :
    OnlyActiveTransmittersSend (s.reachBlock b) := by
  cases b
  case transmitter n =>
    refine onlyActiveTransmittersSend_modify h n (f := Transmitter.softReset) rfl ?_
    unfold Transmitter.softReset
    split
    · next m hSending =>
      split
      · exact h n
      · intro hState
        rw [(h n hState).1] at hSending
        contradiction
    · exact h n
    · exact h n
  case selector =>
    intro n
    simp only [State.reachBlock, State.softResetSelector, State.recompute_transmitters, State.onSelector_transmitters]
    exact h n
  all_goals exact h

theorem onlyActiveTransmittersSend_boundary {s : State} (h : OnlyActiveTransmittersSend s) :
    OnlyActiveTransmittersSend (execState .outputFrameBoundary s) := by
  intro n
  simp only [execState, exec, execOutputFrameBoundary]
  generalize hu : s.drainRaised.beginFrame.selectorBoundary.fixFrame.readStores.take.computeMap = u
  have hKept : u.transmitters = s.transmitters := by simp [← hu]
  simp only [State.transmit, Tab.get_tabulate, hKept]
  split
  · intro hState
    contradiction
  · exact h n

/-! ### Every step -/

theorem LinksLegal.linkConfigHandler {s : State} (h : LinksLegal s) (ps : List Byte) :
    LinksLegal (linkConfigHandler ps s).1 := by
  unfold Machine.linkConfigHandler
  repeat' split
  case h_1 n on _ _ _ _ => exact (h.configReceiver n on).congr (by simp) (by simp)
  all_goals exact h

theorem onlyActiveTransmittersSend_linkConfigHandler {s : State} (h : OnlyActiveTransmittersSend s) (ps : List Byte) :
    OnlyActiveTransmittersSend (linkConfigHandler ps s).1 := by
  unfold linkConfigHandler
  repeat' split
  case h_1 =>
    refine onlyActiveTransmittersSend_configTransmitter ?_ _ _
    rw [State.configReceiver_frame]
    exact h
  all_goals exact h

theorem keptByBlocks_linksLegal : KeptByBlocks (fun b => b == .receivers || b == .links || b == .counters) LinksLegal where
  frame {b s t} hFrame hOwn hWhole h := by
    cases b <;> first | contradiction | (rw [Block.Frame] at hFrame; rw [hFrame]; exact h)
  handle s c p ps span hOwn h _ := by
    simp only [Bool.or_eq_true, beq_iff_eq] at hOwn
    rcases hOwn with (hBlock | hBlock) | hBlock
    · exact absurd hBlock (cmd_block_ne c).2
    · match c, hBlock with
      | .linkConfig, _ => exact h.linkConfigHandler ps
    · exact h.counters hBlock p ps span
  row s i hOwn h := by
    simp only [Bool.or_eq_true, beq_iff_eq, row_block_ne i, or_false] at hOwn
    exact linksLegal_row hOwn h
  beginSoftReset _ _ h := h
  reachBlock _ b h := h.reachBlock b
  boundary _ h := h.boundary
  initial straps n := by
    simp only [State.initial, Tab.get_fill]
    exact linkLegal_outside (by decide) ⟨rfl, rfl⟩ ⟨rfl, rfl, rfl⟩
  waiting _ _ _ h := h

theorem keptByBlocks_onlyActiveTransmittersSend : KeptByBlocks (· == .links) OnlyActiveTransmittersSend where
  frame {b s t} hFrame hOwn hWhole h := by
    cases b <;> first | contradiction | (rw [Block.Frame] at hFrame; rw [hFrame]; exact h)
  handle s c p ps span hOwn h _ := by
    match c, eq_of_beq hOwn with
    | .linkConfig, _ => exact onlyActiveTransmittersSend_linkConfigHandler h ps
  row s i hOwn h := absurd (eq_of_beq hOwn) (row_block_ne i).1
  beginSoftReset _ _ h := h
  reachBlock _ b h := onlyActiveTransmittersSend_reachBlock h b
  boundary _ h := onlyActiveTransmittersSend_boundary h
  initial straps n := by simp [State.initial, Transmitter.initial]
  waiting _ _ _ h := h

/-- Settles O58: a receiver and its store enter and leave IN_FRAME together and with a good frame, and a transmitter is
made to send by a boundary alone, which makes it ACTIVE. -/
theorem everyStepKeepsTheLinksLegal : Obligations.EveryStepKeepsTheLinksLegal := by
  intro s t hReceivers hStores hTransmitters hStep
  have hLinks : LinksLegal t := keptByBlocks_linksLegal.step
    (keptByPorts_of_quiet fun hQuiet h => by rw [hQuiet]; exact h) ((linksLegal_iff s).mpr ⟨hReceivers, hStores⟩) hStep
  have hSend : OnlyActiveTransmittersSend t := keptByBlocks_onlyActiveTransmittersSend.step
    (keptByPorts_of_quiet fun hQuiet h => by rw [hQuiet]; exact h) hTransmitters hStep
  obtain ⟨hReceivers', hStores'⟩ := (linksLegal_iff t).mp hLinks
  exact ⟨hReceivers', hStores', hSend⟩

end Sys2Proof.Machine
end

section
/-! Capacities (R14, R103, R111, R140, R144, R171): what joins a store, a staging set, the commit queue, a mailbox, a
transmit queue or a response queue finds room there. -/

namespace Sys2Proof.Machine

/-! ### The operations that the rows of a receiver are made of -/

/-- Kept by each operation that the rows of a receiver, and the receive part of LINK_CONFIG, are made of. -/
structure KeptByLinkOps (P : State → Prop) : Prop where
  advance : ∀ s e, P s → P (s.advance e)
  advanceTo : ∀ s m, P s → P (s.advanceTo m)
  onReceiver : ∀ s n f, P s → P (s.onReceiver n f)
  raise : ∀ s source audience data, P s → P (s.raise source audience data)
  center : ∀ s n, P s → P (s.onStore n Store.center)
  release : ∀ s n, P s → P (s.onStore n Store.release)
  append : ∀ s n f, P s → P (s.onStore n fun e => (e.append f).store)
  sideItem : ∀ s n i, P s → P (s.sideItem n i)
  reportSources : ∀ s, P s → P s.reportSources

namespace KeptByLinkOps

variable {P : State → Prop} (L : KeptByLinkOps P) {s : State} (h : P s) (n : Link)
include L h

theorem raiseLinkState : P (s.raiseLinkState n) := L.raise s _ _ _ h

theorem windowFrame (bad : Bool) : P (s.windowFrame n bad) := by
  have hWindow := L.onReceiver s n (Receiver.window bad) h
  unfold State.windowFrame
  simp only
  split
  · exact hWindow
  · exact L.raiseLinkState hWindow n

theorem appendFrame (f : Samples) : P (s.appendFrame n f) := by
  have hStore : P (s.onStore n fun _ => ((s.stores.get n).append f).store) := L.append s n f h
  unfold State.appendFrame
  simp only
  split
  · exact L.raise _ _ _ _ hStore
  · exact hStore

theorem leaveTo (f : Receiver → Receiver) : P (s.leaveTo n f) := by
  have hReceiver := L.raiseLinkState (L.onReceiver s n f h) n
  unfold State.leaveTo
  simp only
  split
  · exact L.sideItem _ n _ (L.release _ n hReceiver)
  · exact hReceiver

theorem takeGoodFrame (f : LinkFrame) : P (s.takeGoodFrame n f) :=
  L.appendFrame (L.sideItem _ n _ (L.windowFrame (L.onReceiver s n _ h) n false)) n _

theorem takeConcealed (f : Receiver → Receiver) : P (s.takeConcealed n f) :=
  L.appendFrame (L.sideItem _ n _ (L.windowFrame (L.onReceiver s n f h) n true)) n _

theorem configReceiver (on : Bool) : P (s.configReceiver n on) := by
  unfold State.configReceiver
  split
  · exact L.raiseLinkState (L.onReceiver s n _ h) n
  · exact h
  · exact h
  · exact L.reportSources _ (L.leaveTo h n _)

omit n in
theorem row {i : Instr} (hBlock : rowBlock i = .receivers) : P (execState i s) := by
  match i, hBlock with
  | .qualificationAbandoned n e, _ => exact L.onReceiver _ n _ (L.advance s e h)
  | .qualificationStart n e, _ =>
    simp only [execState, exec, execQualificationStart]
    split
    · exact L.onReceiver _ n _ (L.advance s e h)
    · exact L.advance s e h
  | .qualificationComplete n, _ =>
    simp only [execState, exec, execQualificationComplete]
    split
    · exact L.raiseLinkState (L.onReceiver _ n _ (L.advanceTo s _ h)) n
    · exact h
  | .alignmentPatternFound n pos e, _ =>
    simp only [execState, exec, execAlignmentPatternFound]
    split
    · exact L.raiseLinkState (L.onReceiver _ n _ (L.advance s e h)) n
    · exact L.advance s e h
  | .lossOfSignal n e, _ =>
    simp only [execState, exec, execLossOfSignal]
    split
    case h_4 | h_5 => exact L.advance s e h
    all_goals exact L.reportSources _ (L.leaveTo (L.advance s e h) n _)
  | .confirmFrameArrival n pos f e, _ =>
    have hNow := L.advance s e h
    simp only [execState, exec, execConfirmFrameArrival]
    repeat' split
    · exact L.onReceiver _ n _ hNow
    · exact L.reportSources _ (L.takeGoodFrame (L.center _ n (L.raiseLinkState (L.onReceiver _ n _ hNow) n)) n f)
    · exact L.raiseLinkState (L.onReceiver _ n _ hNow) n
    · exact hNow
  | .frameArrival n pos f e, _ =>
    have hEvent := L.onReceiver _ n (Receiver.referenceEvent (s.now + e)) (L.advance s e h)
    simp only [execState, exec, execFrameArrival]
    split
    · refine L.reportSources _ ?_
      repeat' split
      · exact L.takeGoodFrame hEvent n f
      · exact L.takeConcealed hEvent n _
      · exact L.takeConcealed hEvent n _
      · exact L.leaveTo hEvent n _
    · exact L.advance s e h

end KeptByLinkOps

/-! ### Each collection within its capacity -/

/-- The capacities, one field a collection. -/
structure Fits (s : State) : Prop where
  stores : ∀ n, (s.stores.get n).frames.length ≤ 4
  staging : ∀ p, (s.staging.get p).records.length ≤ 32
  commits : ∀ p, setsOf p s.commitQueue ≤ 2
  mailboxes : ∀ p, (s.mailboxes.get p).records.length ≤ 16
  txQueues : ∀ n, (s.txQueues.get n).length ≤ 8
  responses : ∀ p, (s.ports.get p).responses.length ≤ 4

theorem fits_iff (s : State) : Fits s ↔ QueuesWithinCapacity s :=
  ⟨fun h => ⟨h.stores, h.staging, h.commits, h.mailboxes, h.txQueues, h.responses⟩,
    fun ⟨h1, h2, h3, h4, h5, h6⟩ => ⟨h1, h2, h3, h4, h5, h6⟩⟩

/-- An item of a table changed within a limit. -/
theorem le_of_modify {n : Nat} {α : Type} {t : Tab n α} {size : α → Nat} {k : Nat} (h : ∀ i, size (t.get i) ≤ k)
    (i : Fin n) {f : α → α} (hf : size (f (t.get i)) ≤ k) (j : Fin n) : size ((t.modify i f).get j) ≤ k := by
  rw [Tab.get_modify]
  split
  · exact hf
  · exact h j

/-! ### Stores (R14 to R16) -/

theorem append_fits {e : Store} (h : e.frames.length ≤ 4) (f : Samples) : (e.append f).store.frames.length ≤ 4 := by
  unfold Store.append Store.slip
  split
  · next hRoom => simpa [Config.storeDepth] using hRoom
  · split <;> simp <;> omega

theorem boundary_fits {e : Store} (h : e.frames.length ≤ 4) : e.boundary.store.frames.length ≤ 4 := by
  simp only [Store.boundary, Store.countdown, Store.read, Store.slip]
  split <;> simp_all <;> try omega
  split <;> simp_all

theorem Fits.onStore {s : State} (h : Fits s) (n : Link) {f : Store → Store}
    (hf : (f (s.stores.get n)).frames.length ≤ 4) : Fits (s.onStore n f) :=
  { h with stores := le_of_modify (size := fun e : Store => e.frames.length) h.stores n hf }

/-! ### Mailboxes (R140, R141) -/

theorem place_fits {m : Mailbox} (h : m.records.length ≤ 16) (number : SessionNo) (r : MessageRecord) :
    (m.place number r).records.length ≤ 16 := by
  unfold Mailbox.place
  repeat' split
  case isFalse.isFalse.isTrue hRoom => simpa [Config.mailboxMax] using hRoom
  all_goals simp [h]

theorem mailboxAfter_fits {s : State} (h : Fits s) (m : MessageRecord) (p : Port) :
    (mailboxAfter s m p).records.length ≤ 16 := by
  unfold mailboxAfter
  split
  · exact h.mailboxes p
  · exact place_fits (h.mailboxes p) _ m

theorem Fits.sideItem {s : State} (h : Fits s) (n : Link) (i : SideItem) : Fits (s.sideItem n i) := by
  have hItem : Fits (s.onAssembler n fun _ => ((s.assemblers.get n).item i).1) := { h with }
  unfold State.sideItem
  simp only
  split
  · exact hItem
  · unfold State.completeMessage
    split
    · refine { hItem with mailboxes := fun p => ?_ }
      simp only [State.deliver, Tab.get_tabulate]
      exact mailboxAfter_fits hItem _ p
    · exact { hItem with }

/-! ### Receivers and links -/

theorem keptByLinkOps_fits : KeptByLinkOps Fits where
  advance _ _ h := { h with }
  advanceTo _ _ h := { h with }
  onReceiver _ _ _ h := { h with }
  raise _ _ _ _ h := { h with }
  center _ n h := h.onStore n (Nat.zero_le 4)
  release _ n h := h.onStore n (Nat.zero_le 4)
  append _ n f h := h.onStore n (append_fits (h.stores n) f)
  sideItem _ n i h := h.sideItem n i
  reportSources s h := by rw [State.reportSources_frame]; exact { h with }

/-! ### Staging sets (R103, R106) -/

theorem Fits.onStaging {s : State} (h : Fits s) (p : Port) {f : Staging → Staging}
    (hf : (f (s.staging.get p)).records.length ≤ 32) : Fits (s.onStaging p f) :=
  { h with staging := le_of_modify (size := fun t : Staging => t.records.length) h.staging p hf }

theorem Fits.freshStaging {s : State} (h : Fits s) (p : Port) : Fits (s.freshStaging p) := by
  refine h.onStaging p ?_
  unfold Staging.fresh
  split
  · exact Nat.zero_le 32
  · exact h.staging p

theorem placeRecord_fits {rs : List ChangeRecord} {r : ChangeRecord} (h : rs.length ≤ 32)
    (hRoom : ¬ ((recordIndex r.dest rs).isNone = true ∧ 32 ≤ rs.length)) : (placeRecord r rs).length ≤ 32 := by
  unfold placeRecord
  split
  · simpa using h
  · next hNew =>
    have hNone : (recordIndex r.dest rs).isNone = true := by simpa using hNew
    have : ¬ 32 ≤ rs.length := fun hFull => hRoom ⟨hNone, hFull⟩
    simp only [List.length_append, List.length_singleton]
    omega

theorem keep_fits {t : Staging} {rs : List ChangeRecord} (h : rs.length ≤ 32) : (t.keep rs).records.length ≤ 32 := by
  unfold Staging.keep
  split
  · exact Nat.zero_le 32
  · exact h

theorem Fits.stageHandler {s : State} (h : Fits s) (p : Port) (ps : List Byte) : Fits (stageHandler p ps s).1 := by
  have hFresh := h.freshStaging p
  simp only [Machine.stageHandler]
  split
  · exact hFresh
  · split
    · exact hFresh
    · split
      · exact hFresh
      · next hRoom => exact hFresh.onStaging p (placeRecord_fits (hFresh.staging p) hRoom)

theorem Fits.unstageHandler {s : State} (h : Fits s) (p : Port) (ps : List Byte) : Fits (unstageHandler p ps s).1 := by
  have hFresh := h.freshStaging p
  simp only [Machine.unstageHandler]
  repeat' split
  case h_1.isFalse =>
    exact hFresh.onStaging p (keep_fits ((List.length_filter_le _ _).trans (hFresh.staging p)))
  all_goals first | exact hFresh | exact h

/-! ### The commit queue (R111, R115) -/

theorem setsOf_sublist {q r : List ChangeSet} (hr : r.Sublist q) (p : Port) : setsOf p r ≤ setsOf p q :=
  (hr.filter _).length_le

theorem setsOf_insertSet (p : Port) (x : ChangeSet) (q : List ChangeSet) :
    setsOf p (insertSet x q) = setsOf p q + if x.id.port = p then 1 else 0 := by
  obtain ⟨before, behind, rfl, -, -, hInsert, -⟩ := insertSet_split x q
  rw [hInsert]
  simp only [setsOf, List.filter_append, List.filter_cons, List.length_append]
  by_cases hPort : x.id.port = p
  · simp [hPort]; omega
  · simp [hPort]

theorem insertSet_fits {q : List ChangeSet} (h : ∀ p, setsOf p q ≤ 2) (x : ChangeSet) (hRoom : ¬ 2 ≤ setsOf x.id.port q)
    (p : Port) : setsOf p (insertSet x q) ≤ 2 := by
  rw [setsOf_insertSet]
  split
  · next hPort => rw [← hPort]; omega
  · exact h p

theorem Fits.commitHandler {s : State} (h : Fits s) (p : Port) (ps : List Byte) : Fits (commitHandler p ps s).1 := by
  have hFresh := h.freshStaging p
  have hCommitted (x : ChangeSet) (l : Tab 4 (BitVec 16)) (hRoom : ¬ 2 ≤ setsOf x.id.port (s.freshStaging p).commitQueue) :
      Fits { s.freshStaging p with
        commitSeq := l, commitQueue := insertSet x (s.freshStaging p).commitQueue
        staging := (s.freshStaging p).staging.put p Staging.initial } :=
    { hFresh.onStaging p (f := fun _ => Staging.initial) (Nat.zero_le 32) with
      commits := insertSet_fits hFresh.commits x hRoom }
  simp only [Machine.commitHandler]
  repeat' split
  all_goals first | exact h | exact hFresh | exact hCommitted _ _ ‹_›

theorem Fits.withoutSets {s : State} (h : Fits s) {q : List ChangeSet} (hq : q.Sublist s.commitQueue) (p : Port) :
    setsOf p q ≤ 2 :=
  (setsOf_sublist hq p).trans (h.commits p)

theorem Fits.cancelHandler {s : State} (h : Fits s) (p : Port) (ps : List Byte) : Fits (cancelHandler p ps s).1 := by
  simp only [Machine.cancelHandler]
  repeat' split
  case h_2 hTaken => exact { h with commits := h.withoutSets (takeFirst_sublist hTaken) }
  all_goals exact h

theorem Fits.handle_changes {s : State} (h : Fits s) {c : Cmd} (hBlock : c.block = .changes) (p : Port) (ps : List Byte)
    (span : ResetSpan) : Fits (c.handle p ps span s).1 := by
  match c, hBlock with
  | .stage, _ => exact h.stageHandler p ps
  | .unstage, _ => exact h.unstageHandler p ps
  | .discard, _ => exact (h.freshStaging p).onStaging p (Nat.zero_le 32)
  | .stagingRead, _ =>
    simp only [Cmd.handle, stagingReadHandler]
    repeat' split
    all_goals first | exact h | exact h.freshStaging p
  | .commit, _ => exact h.commitHandler p ps
  | .cancel, _ => exact h.cancelHandler p ps

theorem Fits.chmSessionEndNotice {s : State} (h : Fits s) (p : Port) : Fits (execState (.chmSessionEndNotice p) s) := by
  simp only [execState, exec, execChmSessionEndNotice]
  split
  · exact h
  · next notice _ _ =>
    have hStaging := h.onStaging p (f := fun t => if t.session = some notice.session then Staging.initial else t) (by
      split
      · exact Nat.zero_le 32
      · exact h.staging p)
    exact { hStaging with commits := h.withoutSets List.filter_sublist }

theorem Fits.take {s : State} (h : Fits s) : Fits s.take := by
  unfold State.take State.rejectSet
  split
  · exact h
  · next x rest hQueue =>
    have hRest : ∀ p, setsOf p rest ≤ 2 := h.withoutSets (hQueue ▸ List.sublist_cons_self x rest)
    have hLeft : Fits { s with commitQueue := rest } := { h with commits := hRest }
    split
    · exact h
    · simp only
      repeat' split
      all_goals exact { hLeft with }

/-! ### Messages (R140, R142, R144) -/

theorem Fits.onMailbox {s : State} (h : Fits s) (p : Port) {f : Mailbox → Mailbox}
    (hf : (f (s.mailboxes.get p)).records.length ≤ 16) : Fits (s.onMailbox p f) :=
  { h with mailboxes := le_of_modify (size := fun m : Mailbox => m.records.length) h.mailboxes p hf }

theorem fresh_fits {m : Mailbox} (h : m.records.length ≤ 16) (number : SessionNo) :
    (m.fresh number).records.length ≤ 16 := by
  unfold Mailbox.fresh
  split
  · exact Nat.zero_le 16
  · exact h

theorem Fits.fetchHandler {s : State} (h : Fits s) (p : Port) : Fits (fetchHandler p s).1 := by
  have hFresh := fresh_fits (h.mailboxes p) (s.sessionNo p)
  simp only [Machine.fetchHandler]
  split
  · exact h.onMailbox p hFresh
  · next r rest hRecords =>
    rw [hRecords] at hFresh
    exact h.onMailbox p (Nat.le_of_succ_le hFresh)

theorem Fits.sendHandler {s : State} (h : Fits s) (p : Port) (ps : List Byte) : Fits (sendHandler p ps s).1 := by
  simp only [Machine.sendHandler]
  repeat' split
  case h_2.isFalse.isFalse.isFalse n _ _ _ hRoom =>
    refine { h with txQueues := le_of_modify (size := List.length) h.txQueues n ?_ }
    simp only [Config.txQueueMax, List.length_append, List.length_singleton] at hRoom ⊢
    omega
  all_goals exact h

theorem Fits.handle_messages {s : State} (h : Fits s) {c : Cmd} (hBlock : c.block = .messages) (p : Port)
    (ps : List Byte) (span : ResetSpan) : Fits (c.handle p ps span s).1 := by
  match c, hBlock with
  | .subscribe, _ =>
    simp only [Cmd.handle, subscribeHandler]
    repeat' split
    all_goals exact { h with }
  | .unsubscribe, _ =>
    simp only [Cmd.handle, unsubscribeHandler]
    repeat' split
    all_goals exact { h with }
  | .fetch, _ => exact h.fetchHandler p
  | .send, _ => exact h.sendHandler p ps

theorem Fits.row_messages {s : State} (h : Fits s) {i : Instr} (hBlock : rowBlock i = .messages) :
    Fits (execState i s) := by
  match i, hBlock with
  | .completionNotice n, _ =>
    simp only [execState, exec, execCompletionNotice]
    split <;> exact { h with }
  | .discardNotice n, _ =>
    simp only [execState, exec, execDiscardNotice]
    split <;> exact { h with }
  | .disableNotice n, _ =>
    simp only [execState, exec, execDisableNotice]
    split
    · exact { h with txQueues := le_of_modify (size := List.length) h.txQueues n (f := fun _ => []) (Nat.zero_le 8) }
    · exact h
  | .msuSessionEndNotice p, _ =>
    simp only [execState, exec, execMsuSessionEndNotice]
    split
    · exact h
    · next notice _ _ =>
      refine { h with mailboxes := ?_, txQueues := fun n => ?_ }
      · refine le_of_modify (size := fun m : Mailbox => m.records.length) h.mailboxes p ?_
        split
        · exact Nat.zero_le 16
        · exact h.mailboxes p
      · simp only [Tab.get_map]
        exact (List.length_filter_le _ _).trans (h.txQueues n)

theorem Fits.transmit {s : State} (h : Fits s) : Fits s.transmit := by
  refine { h with txQueues := fun n => ?_ }
  simp only [State.transmit, Tab.get_tabulate]
  split
  · refine le_trans ?_ (h.txQueues n)
    unfold Transmitter.step chooseField
    split <;> simp_all
  · exact h.txQueues n

/-! ### Response queues (R162, R171) -/

theorem Fits.withPorts {s t : State} (h : Fits s) (hPorts : ∀ p, (t.ports.get p).responses = (s.ports.get p).responses)
    (hFrame : t = { s with ports := t.ports, events := t.events, evuNotices := t.evuNotices, raised := t.raised }) :
    Fits t := by
  rw [hFrame]
  exact { h with responses := fun p => by rw [hPorts]; exact h.responses p }

theorem Fits.queueRaised {s : State} (h : Fits s) (ev : RaisedEvent) : Fits (s.queueRaised ev) :=
  h.withPorts (fun p => by rw [State.queueRaised_port]) rfl

theorem Fits.row_events {s : State} (h : Fits s) {i : Instr} (hBlock : rowBlock i = .events) : Fits (execState i s) := by
  match i, hBlock with
  | .raisedEventQueuing source, _ =>
    simp only [execState, exec, execRaisedEventQueuing]
    split
    · exact h
    · next ev rest _ => exact Fits.queueRaised (s := { s with raised := rest }) { h with } ev
  | .evuSessionEndNotice p, _ =>
    simp only [execState, exec, execEvuSessionEndNotice]
    split
    · exact h
    · refine h.withPorts (fun q => ?_) rfl
      simp only [State.keepEvents, Tab.get_modify]
      split
      · next hq => rw [hq]; rfl
      · rfl

theorem keptByPorts_fits : KeptByPorts Fits where
  advance _ _ h := { h with }
  renewLease s p h := by rw [State.renewLease_frame]; exact { h with }
  onPort s p f h hf :=
    { h with responses := le_of_modify (size := fun c : PortState => c.responses.length) h.responses p (hf (h.responses p)) }
  settle s p t k h := by
    unfold State.settle
    repeat' split
    case h_2 =>
      refine { h with responses := le_of_modify (size := fun c : PortState => c.responses.length) h.responses p ?_ }
      rw [List.length_tail]
      exact (Nat.sub_le _ 1).trans (h.responses p)
    all_goals exact { h with }
  beginTransaction s p h :=
    { h with responses := le_of_modify (size := fun c : PortState => c.responses.length) h.responses p (h.responses p) }

/-! ### Counters cleared, and soft reset -/

theorem Fits.handle_counters {s : State} (h : Fits s) {c : Cmd} (hBlock : c.block = .counters) (p : Port)
    (ps : List Byte) (span : ResetSpan) : Fits (c.handle p ps span s).1 := by
  have hAll : Fits s.clearAllCounters := by
    refine { h with stores := fun n => ?_, mailboxes := fun q => ?_, responses := fun q => ?_ }
    all_goals simp only [State.clearAllCounters, Tab.get_map]
    · exact h.stores n
    · exact h.mailboxes q
    · exact h.responses q
  have hGroup (g : CounterGroup) : Fits (s.clearGroup g) := by
    cases g with
    | link n =>
      have hStore := h.onStore n (f := Store.clearCounters) (h.stores n)
      exact { hStore with }
    | port q =>
      refine (keptByPorts_fits.onPort s q _ h id).onMailbox q ?_
      exact h.mailboxes q
  match c, hBlock with
  | .countersClear, _ =>
    simp only [Cmd.handle, countersClearHandler]
    repeat' split
    all_goals first | exact h | exact hAll | exact hGroup _

theorem Fits.reachBlock {s : State} (h : Fits s) (b : ResetBlock) : Fits (s.reachBlock b) := by
  cases b
  case receiver n =>
    have hStore := h.onStore n (f := Store.clearCounters) (h.stores n)
    exact { hStore with }
  case selector =>
    rw [State.reachBlock, State.softResetSelector, State.recompute_frame]
    exact { h with }
  case changeManager =>
    refine { h with staging := fun p => ?_, commits := fun p => Nat.zero_le 2 }
    simp [State.reachBlock, State.softResetChanges, Staging.initial]
  case messageUnit =>
    refine { h with mailboxes := fun p => ?_, txQueues := fun n => ?_ }
    all_goals simp [State.reachBlock, State.softResetMessages, Mailbox.initial]
  case eventUnit => exact h.withPorts (reachBlock_responses s .eventUnit) rfl
  case port p => exact keptByPorts_fits.onPort s p _ h id
  all_goals exact { h with }

theorem Fits.beginSoftReset {s : State} (h : Fits s) (p : Port) : Fits (s.beginSoftReset p) := by
  refine { h with responses := fun q => ?_ }
  simp only [State.beginSoftReset, State.softResetSessions, State.emptyOtherResponses, Tab.get_tabulate]
  split
  · exact h.responses q
  · exact Nat.zero_le 4

/-! ### Every step -/

theorem Fits.boundary {s : State} (h : Fits s) : Fits (execState .outputFrameBoundary s) := by
  have hDrained : Fits s.drainRaised :=
    h.withPorts (fun p => by rw [State.drainRaised_port]) (by rw [State.drainRaised_frame])
  have hFixed : Fits s.drainRaised.beginFrame.selectorBoundary.fixFrame := by
    rw [State.fixFrame_frame, State.selectorBoundary_frame, State.beginFrame_frame]
    exact { hDrained with }
  have hRead : Fits s.drainRaised.beginFrame.selectorBoundary.fixFrame.readStores := by
    refine { hFixed with stores := fun n => ?_ }
    simp only [State.readStores, Tab.get_map]
    exact boundary_fits (hFixed.stores n)
  have hMapped : Fits s.drainRaised.beginFrame.selectorBoundary.fixFrame.readStores.take.computeMap := by
    rw [State.computeMap_frame]
    exact { hRead.take with }
  exact hMapped.transmit

theorem Fits.linkConfigHandler {s : State} (h : Fits s) (ps : List Byte) : Fits (linkConfigHandler ps s).1 := by
  unfold Machine.linkConfigHandler
  repeat' split
  case h_1 n on _ _ _ _ =>
    rw [State.configTransmitter_frame]
    exact { keptByLinkOps_fits.configReceiver h n on with }
  all_goals exact h

theorem keptByBlocks_fits : KeptByBlocks (fun b => b ∈ [.changes, .messages, .events, .receivers, .links, .counters]) Fits where
  frame {b s t} hFrame hOwn hWhole h := by
    cases b <;> first | contradiction | (rw [Block.Frame] at hFrame; rw [hFrame]; exact { h with })
  handle s c p ps span hOwn h _ := by
    simp only [List.mem_cons, List.not_mem_nil, or_false, cmd_block_ne c, false_or, decide_eq_true_eq] at hOwn
    rcases hOwn with hBlock | hBlock | hBlock | hBlock
    · exact h.handle_changes hBlock p ps span
    · exact h.handle_messages hBlock p ps span
    · match c, hBlock with
      | .linkConfig, _ => exact h.linkConfigHandler ps
    · exact h.handle_counters hBlock p ps span
  row s i hOwn h := by
    simp only [List.mem_cons, List.not_mem_nil, or_false, row_block_ne i, decide_eq_true_eq] at hOwn
    rcases hOwn with hBlock | hBlock | hBlock | hBlock
    · match i, hBlock with
      | .chmSessionEndNotice p, _ => exact h.chmSessionEndNotice p
    · exact h.row_messages hBlock
    · exact h.row_events hBlock
    · exact keptByLinkOps_fits.row h hBlock
  beginSoftReset _ p h := h.beginSoftReset p
  reachBlock _ b h := h.reachBlock b
  boundary _ h := h.boundary
  initial straps := by
    constructor <;> simp [State.initial, Store.initial, Staging.initial, Mailbox.initial, PortState.initial, setsOf]
  waiting _ _ _ h := { h with }

end Sys2Proof.Machine
end

section
/-! The form of the collections (R103, R115, R130, R140): one staged record of a destination, a session number exactly
where records are held, assemblies of 2 to 35 bytes, and the commit queue in due order. -/

namespace Sys2Proof.Machine

/-! ### One staging set (R103, R106) -/

/-- A staging set with one record of a destination at most, and a session number exactly while it holds records. -/
def StagingLegal (t : Staging) : Prop := (t.session = none ↔ t.records = []) ∧ t.records.Pairwise fun x y => x.dest ≠ y.dest

theorem stagingLegal_initial : StagingLegal Staging.initial := ⟨by simp [Staging.initial], List.Pairwise.nil⟩

theorem StagingLegal.fresh {t : Staging} (h : StagingLegal t) (number : SessionNo) : StagingLegal (t.fresh number) := by
  unfold Staging.fresh
  split
  · exact stagingLegal_initial
  · exact h

theorem placeRecord_ne_nil (r : ChangeRecord) (rs : List ChangeRecord) : placeRecord r rs ≠ [] := by
  unfold placeRecord
  split
  · next hSome =>
    rintro hMap
    rw [List.map_eq_nil_iff.mp hMap] at hSome
    contradiction
  · simp

theorem placeRecord_pairwise {rs : List ChangeRecord} (h : rs.Pairwise fun x y => x.dest ≠ y.dest) (r : ChangeRecord) :
    (placeRecord r rs).Pairwise fun x y => x.dest ≠ y.dest := by
  unfold placeRecord
  split
  · have hDest (x : ChangeRecord) : (if x.dest = r.dest then r else x).dest = x.dest := by
      split
      · next hx => exact hx.symm
      · rfl
    rw [List.pairwise_map]
    simpa only [hDest] using h
  · next hNew =>
    have hOther : ∀ x ∈ rs, x.dest ≠ r.dest := by
      simpa [recordIndex] using hNew
    exact List.pairwise_append.mpr ⟨h, List.pairwise_singleton _ _, by simpa using hOther⟩

theorem StagingLegal.stage {t : Staging} (h : StagingLegal t) (r : ChangeRecord) (number : SessionNo) :
    StagingLegal { records := placeRecord r t.records, session := if t.records = [] then some number else t.session } := by
  refine ⟨?_, placeRecord_pairwise h.2 r⟩
  simp only [placeRecord_ne_nil, iff_false]
  split
  · simp
  · next hSome => exact mt h.1.mp hSome

theorem StagingLegal.keep {t : Staging} (h : StagingLegal t) {rs : List ChangeRecord} (hr : rs.Sublist t.records) :
    StagingLegal (t.keep rs) := by
  unfold Staging.keep
  split
  · exact stagingLegal_initial
  · next hSome =>
    have hBefore : t.records ≠ [] := fun hNil => hSome (List.sublist_nil.mp (hNil ▸ hr))
    exact ⟨by simpa [hSome] using mt h.1.mp hBefore, h.2.sublist hr⟩

/-! ### One assembler (R130 to R134) -/

/-- An assembler IDLE, or with 2 to 35 bytes. -/
def AssemblerLegal (a : Assembler) : Prop := ∀ b, a.buffer = some b → 2 ≤ b.length ∧ b.length ≤ 35

theorem assemblerLegal_of_idle {a : Assembler} (h : a.buffer = none) : AssemblerLegal a := by
  intro b hb
  rw [h] at hb
  contradiction

theorem assemblerLegal_of_start {a : Assembler} {x y : Byte} (h : a.buffer = some [x, y]) : AssemblerLegal a := by
  intro b hb
  rw [h] at hb
  cases hb
  simp

theorem append_legal {buf : List Byte} (h : 2 ≤ buf.length) (more : List Byte) (last : Bool) (a : Assembler) :
    AssemblerLegal (a.append buf more last).1 := by
  unfold Assembler.append
  repeat' split
  · exact assemblerLegal_of_idle rfl
  · exact assemblerLegal_of_idle rfl
  · next hFits _ =>
    intro b hb
    cases hb
    simp only [Config.wireMax, List.length_append] at hFits ⊢
    omega

theorem AssemblerLegal.item {a : Assembler} (h : AssemblerLegal a) (i : SideItem) : AssemblerLegal (a.item i).1 := by
  unfold Assembler.item
  split
  · next hIdle =>
    unfold Assembler.idleItem
    split
    · exact assemblerLegal_of_start rfl
    all_goals exact assemblerLegal_of_idle hIdle
  · next buf hBuffer =>
    have hLength := (h buf hBuffer).1
    unfold Assembler.assemblingItem
    split
    · exact append_legal hLength _ _ a
    · exact append_legal hLength _ _ a
    · exact append_legal hLength _ _ a
    · exact assemblerLegal_of_start rfl
    all_goals exact assemblerLegal_of_idle rfl

/-! ### One mailbox (R140 to R142) -/

/-- A mailbox with a session number exactly while it holds records. -/
def MailboxLegal (m : Mailbox) : Prop := m.session = none ↔ m.records = []

theorem MailboxLegal.place {m : Mailbox} (h : MailboxLegal m) (number : SessionNo) (r : MessageRecord) :
    MailboxLegal (m.place number r) := by
  unfold Mailbox.place
  repeat' split
  · simp [MailboxLegal]
  · simp [MailboxLegal]
  · next hSome _ _ => simpa [MailboxLegal] using mt h.mp hSome
  · exact h

theorem MailboxLegal.fresh {m : Mailbox} (h : MailboxLegal m) (number : SessionNo) : MailboxLegal (m.fresh number) := by
  unfold Mailbox.fresh
  split
  · simp [MailboxLegal, Mailbox.empty]
  · exact h

theorem MailboxLegal.afterFetch {m : Mailbox} (h : MailboxLegal m) {r : MessageRecord} {rest : List MessageRecord}
    (hRecords : m.records = r :: rest) : MailboxLegal (m.afterFetch rest) := by
  have hSession : m.session ≠ none := mt h.mp (by simp [hRecords])
  simp only [MailboxLegal, Mailbox.afterFetch]
  split
  · simp_all
  · simp_all

/-! ### The collections of the part -/

/-- The forms of staging sets, assemblers and mailboxes. -/
structure Formed (s : State) : Prop where
  staging : ∀ p, StagingLegal (s.staging.get p)
  assemblers : ∀ n, AssemblerLegal (s.assemblers.get n)
  mailboxes : ∀ p, MailboxLegal (s.mailboxes.get p)

theorem collectionsLegal_iff (s : State) :
    CollectionsLegal s ↔ Formed s ∧ CommitQueueLegal s.timing.frameCounter s.commitQueue :=
  ⟨fun ⟨h1, h2, h3, h4⟩ => ⟨⟨h1, h2, h3⟩, h4⟩, fun ⟨h, h4⟩ => ⟨h.staging, h.assemblers, h.mailboxes, h4⟩⟩

theorem all_of_modify {n : Nat} {α : Type} {t : Tab n α} {P : α → Prop} (h : ∀ i, P (t.get i)) (i : Fin n) {f : α → α}
    (hf : P (f (t.get i))) (j : Fin n) : P ((t.modify i f).get j) := by
  rw [Tab.get_modify]
  split
  · exact hf
  · exact h j

theorem Formed.onStaging {s : State} (h : Formed s) (p : Port) {f : Staging → Staging}
    (hf : StagingLegal (f (s.staging.get p))) : Formed (s.onStaging p f) :=
  { h with staging := all_of_modify h.staging p hf }

theorem Formed.onMailbox {s : State} (h : Formed s) (p : Port) {f : Mailbox → Mailbox}
    (hf : MailboxLegal (f (s.mailboxes.get p))) : Formed (s.onMailbox p f) :=
  { h with mailboxes := all_of_modify h.mailboxes p hf }

theorem Formed.onAssembler {s : State} (h : Formed s) (n : Link) {f : Assembler → Assembler}
    (hf : AssemblerLegal (f (s.assemblers.get n))) : Formed (s.onAssembler n f) :=
  { h with assemblers := all_of_modify h.assemblers n hf }

theorem Formed.freshStaging {s : State} (h : Formed s) (p : Port) : Formed (s.freshStaging p) :=
  h.onStaging p ((h.staging p).fresh _)

theorem Formed.handle_changes {s : State} (h : Formed s) {c : Cmd} (hBlock : c.block = .changes) (p : Port)
    (ps : List Byte) (span : ResetSpan) : Formed (c.handle p ps span s).1 := by
  have hFresh := h.freshStaging p
  have hEmptied := hFresh.onStaging p (f := fun _ => Staging.initial) stagingLegal_initial
  match c, hBlock with
  | .stage, _ =>
    simp only [Cmd.handle, stageHandler]
    split
    · exact hFresh
    · split
      · exact hFresh
      · split
        · exact hFresh
        · exact hFresh.onStaging p ((hFresh.staging p).stage _ _)
  | .unstage, _ =>
    simp only [Cmd.handle, unstageHandler]
    repeat' split
    · exact hFresh
    · exact hFresh.onStaging p ((hFresh.staging p).keep List.filter_sublist)
    · exact h
  | .discard, _ => exact hEmptied
  | .stagingRead, _ =>
    simp only [Cmd.handle, stagingReadHandler]
    repeat' split
    all_goals first | exact h | exact hFresh
  | .commit, _ =>
    simp only [Cmd.handle, commitHandler]
    repeat' split
    all_goals first | exact h | exact hFresh | exact { hEmptied with }
  | .cancel, _ =>
    simp only [Cmd.handle, cancelHandler]
    repeat' split
    all_goals exact { h with }

theorem Formed.handle_messages {s : State} (h : Formed s) {c : Cmd} (hBlock : c.block = .messages) (p : Port)
    (ps : List Byte) (span : ResetSpan) : Formed (c.handle p ps span s).1 := by
  match c, hBlock with
  | .subscribe, _ =>
    simp only [Cmd.handle, subscribeHandler]
    repeat' split
    all_goals exact { h with }
  | .unsubscribe, _ =>
    simp only [Cmd.handle, unsubscribeHandler]
    repeat' split
    all_goals exact { h with }
  | .fetch, _ =>
    have hFresh := (h.mailboxes p).fresh (s.sessionNo p)
    simp only [Cmd.handle, fetchHandler]
    split
    · exact h.onMailbox p hFresh
    · next hRecords => exact h.onMailbox p (hFresh.afterFetch hRecords)
  | .send, _ =>
    simp only [Cmd.handle, sendHandler]
    repeat' split
    all_goals exact { h with }

theorem Formed.row_messages {s : State} (h : Formed s) {i : Instr} (hBlock : rowBlock i = .messages) :
    Formed (execState i s) := by
  match i, hBlock with
  | .completionNotice n, _ =>
    simp only [execState, exec, execCompletionNotice]
    split <;> exact { h with }
  | .discardNotice n, _ =>
    simp only [execState, exec, execDiscardNotice]
    split <;> exact { h with }
  | .disableNotice n, _ =>
    simp only [execState, exec, execDisableNotice]
    split <;> exact { h with }
  | .msuSessionEndNotice p, _ =>
    simp only [execState, exec, execMsuSessionEndNotice]
    split
    · exact h
    · refine { h with mailboxes := all_of_modify h.mailboxes p ?_ }
      split
      · simp [MailboxLegal, Mailbox.empty]
      · exact h.mailboxes p

theorem Formed.chmSessionEndNotice {s : State} (h : Formed s) (p : Port) :
    Formed (execState (.chmSessionEndNotice p) s) := by
  simp only [execState, exec, execChmSessionEndNotice]
  split
  · exact h
  · refine { h with staging := all_of_modify h.staging p ?_ }
    split
    · exact stagingLegal_initial
    · exact h.staging p

theorem Formed.sideItem {s : State} (h : Formed s) (n : Link) (i : SideItem) : Formed (s.sideItem n i) := by
  have hItem := h.onAssembler n (f := fun _ => ((s.assemblers.get n).item i).1) ((h.assemblers n).item i)
  unfold State.sideItem
  simp only
  split
  · exact hItem
  · unfold State.completeMessage
    split
    · refine { hItem with mailboxes := fun p => ?_ }
      simp only [State.deliver, Tab.get_tabulate, mailboxAfter]
      split
      · exact hItem.mailboxes p
      · exact (hItem.mailboxes p).place _ _
    · exact hItem.onAssembler n (hItem.assemblers n)

theorem keptByLinkOps_formed : KeptByLinkOps Formed where
  advance _ _ h := { h with }
  advanceTo _ _ h := { h with }
  onReceiver _ _ _ h := { h with }
  raise _ _ _ _ h := { h with }
  center _ _ h := { h with }
  release _ _ h := { h with }
  append _ _ _ h := { h with }
  sideItem _ n i h := h.sideItem n i
  reportSources s h := by rw [State.reportSources_frame]; exact { h with }

theorem Formed.handle_counters {s : State} (h : Formed s) {c : Cmd} (hBlock : c.block = .counters) (p : Port)
    (ps : List Byte) (span : ResetSpan) : Formed (c.handle p ps span s).1 := by
  have hAll : Formed s.clearAllCounters := by
    refine { h with assemblers := fun n => ?_, mailboxes := fun q => ?_ }
    all_goals simp only [State.clearAllCounters, Tab.get_map]
    · exact h.assemblers n
    · exact h.mailboxes q
  have hGroup (g : CounterGroup) : Formed (s.clearGroup g) := by
    cases g with
    | link n =>
      have hAssembler := h.onAssembler n (f := Assembler.clearCounters) (h.assemblers n)
      exact { hAssembler with }
    | port q =>
      have hMailbox := h.onMailbox q (f := Mailbox.clearCounter) (h.mailboxes q)
      exact { hMailbox with }
  match c, hBlock with
  | .countersClear, _ =>
    simp only [Cmd.handle, countersClearHandler]
    repeat' split
    all_goals first | exact h | exact hAll | exact hGroup _

theorem Formed.linkConfigHandler {s : State} (h : Formed s) (ps : List Byte) : Formed (linkConfigHandler ps s).1 := by
  unfold Machine.linkConfigHandler
  repeat' split
  case h_1 n on _ _ _ _ =>
    rw [State.configTransmitter_frame]
    exact { keptByLinkOps_formed.configReceiver h n on with }
  all_goals exact h

theorem Formed.reachBlock {s : State} (h : Formed s) (b : ResetBlock) : Formed (s.reachBlock b) := by
  cases b
  case selector =>
    rw [State.reachBlock, State.softResetSelector, State.recompute_frame]
    exact { h with }
  case changeManager =>
    refine { h with staging := fun p => ?_ }
    simp only [State.reachBlock, State.softResetChanges, Tab.get_fill]
    exact stagingLegal_initial
  case messageUnit =>
    refine { h with assemblers := fun n => ?_, mailboxes := fun p => ?_ }
    · simp only [State.reachBlock, State.softResetMessages, Tab.get_fill]
      exact assemblerLegal_of_idle rfl
    · simp [State.reachBlock, State.softResetMessages, Mailbox.initial, MailboxLegal]
  all_goals exact { h with }

theorem Formed.boundary {s : State} (h : Formed s) : Formed (execState .outputFrameBoundary s) := by
  constructor
  · simpa [execState, exec, execOutputFrameBoundary] using h.staging
  · simpa [execState, exec, execOutputFrameBoundary] using h.assemblers
  · simpa [execState, exec, execOutputFrameBoundary] using h.mailboxes

theorem keptByBlocks_formed :
    KeptByBlocks (fun b => b ∈ [.changes, .messages, .receivers, .links, .counters]) Formed where
  frame {b s t} hFrame hOwn hWhole h := by
    cases b <;> first | contradiction | (rw [Block.Frame] at hFrame; rw [hFrame]; exact { h with })
  handle s c p ps span hOwn h _ := by
    simp only [List.mem_cons, List.not_mem_nil, or_false, cmd_block_ne c, false_or, decide_eq_true_eq] at hOwn
    rcases hOwn with hBlock | hBlock | hBlock | hBlock
    · exact h.handle_changes hBlock p ps span
    · exact h.handle_messages hBlock p ps span
    · match c, hBlock with
      | .linkConfig, _ => exact h.linkConfigHandler ps
    · exact h.handle_counters hBlock p ps span
  row s i hOwn h := by
    simp only [List.mem_cons, List.not_mem_nil, or_false, row_block_ne i, decide_eq_true_eq] at hOwn
    rcases hOwn with hBlock | hBlock | hBlock
    · match i, hBlock with
      | .chmSessionEndNotice p, _ => exact h.chmSessionEndNotice p
    · exact h.row_messages hBlock
    · exact keptByLinkOps_formed.row h hBlock
  beginSoftReset _ p h := { h with }
  reachBlock _ b h := h.reachBlock b
  boundary _ h := h.boundary
  initial straps := by
    constructor <;> intro i <;> simp only [State.initial, Tab.get_fill]
    · exact stagingLegal_initial
    · exact assemblerLegal_of_idle rfl
    · simp [Mailbox.initial, MailboxLegal]
  waiting _ _ _ h := { h with }

/-! ### The commit queue in due order (R112, R115, R119) -/

/-- The commit queue within its capacity and in due order. -/
structure CommitsLegal (s : State) : Prop where
  fits : Fits s
  legal : CommitQueueLegal s.timing.frameCounter s.commitQueue

theorem CommitsLegal.length_le {s : State} (h : CommitsLegal s) : s.commitQueue.length ≤ 8 := by
  have := h.fits.commits
  rw [length_eq_setsOf]
  linarith [this 0, this 1, this 2, this 3]

/-- A port with room in the queue leaves room in all of it. -/
theorem CommitsLegal.length_lt {s : State} (h : CommitsLegal s) {p : Port} (hRoom : ¬ 2 ≤ setsOf p s.commitQueue) :
    s.commitQueue.length ≤ 7 := by
  have hCommits := h.fits.commits
  have hPort : p = 0 ∨ p = 1 ∨ p = 2 ∨ p = 3 := by
    generalize p = q
    revert q
    decide
  rw [length_eq_setsOf]
  rcases hPort with rfl | rfl | rfl | rfl <;> linarith [hCommits 0, hCommits 1, hCommits 2, hCommits 3, not_le.mp hRoom]

theorem framesAhead_of_toNat {c d : FrameNo} (h : (d - c).toNat ≤ 480000) : framesAhead c d = (d - c).toNat := by
  rw [framesAhead, BitVec.toInt_eq_toNat_of_lt]
  omega

/-- The due frame settled from the one given lies 1 to 480,000 frames ahead (R112). -/
theorem settleDue_ahead {c due : FrameNo} {given : Option FrameNo} (h : settleDue c given = some due) :
    1 ≤ framesAhead c due ∧ framesAhead c due ≤ 480000 := by
  have hNext : framesAhead c (c + 1) = 1 := by
    rw [framesAhead, add_sub_cancel_left]
    rfl
  simp only [settleDue] at h
  split at h
  · cases h
    omega
  · split at h
    · cases h
      omega
    · split at h
      · next hNe hLe =>
        cases h
        have hLe : (due - c).toNat ≤ 480000 := hLe
        rw [framesAhead_of_toNat hLe]
        omega
      · split at h
        · contradiction
        · cases h
          omega

theorem CommitsLegal.commitHandler {s : State} (h : CommitsLegal s) (p : Port) (ps : List Byte) :
    CommitQueueLegal (commitHandler p ps s).1.timing.frameCounter (commitHandler p ps s).1.commitQueue := by
  simp only [Machine.commitHandler]
  repeat' split
  case h_2 hRoom _ _ _ due hDue =>
    obtain ⟨hNear, hFar⟩ := settleDue_ahead hDue
    exact h.legal.insert hNear hFar (h.length_lt hRoom)
  all_goals exact h.legal

theorem CommitsLegal.handle_changes {s : State} (h : CommitsLegal s) {c : Cmd} (hBlock : c.block = .changes) (p : Port)
    (ps : List Byte) (span : ResetSpan) :
    CommitQueueLegal (c.handle p ps span s).1.timing.frameCounter (c.handle p ps span s).1.commitQueue := by
  match c, hBlock with
  | .commit, _ => exact h.commitHandler p ps
  | .cancel, _ =>
    simp only [Cmd.handle, cancelHandler]
    repeat' split
    case h_2 hTaken => exact h.legal.sublist (takeFirst_sublist hTaken)
    all_goals exact h.legal
  | .discard, _ => exact h.legal
  | .stage, _ =>
    simp only [Cmd.handle, stageHandler]
    repeat' split
    all_goals exact h.legal
  | .unstage, _ =>
    simp only [Cmd.handle, unstageHandler]
    repeat' split
    all_goals exact h.legal
  | .stagingRead, _ =>
    simp only [Cmd.handle, stagingReadHandler]
    repeat' split
    all_goals exact h.legal

theorem frameCounter_handle_timing {c : Cmd} (hBlock : c.block = .timing) (s : State) (p : Port) (ps : List Byte)
    (span : ResetSpan) : (c.handle p ps span s).1.timing.frameCounter = s.timing.frameCounter := by
  match c, hBlock with
  | .wclkOut, _ =>
    simp only [Cmd.handle, wclkOutHandler]
    repeat' split
    all_goals rfl

theorem frameCounter_row_timing {i : Instr} (hBlock : rowBlock i = .timing) (s : State) :
    (execState i s).timing.frameCounter = s.timing.frameCounter := by
  match i, hBlock with
  | .wclkOutFall, _ =>
    simp only [execState, exec, execWclkOutFall]
    split <;> rfl

/-- Outside the Change Manager and the boundary neither the queue nor the current frame changes. -/
theorem commitQueueLegal_of_frame {b : Block} {s t : State} (hFrame : b.Frame s t) (hOwn : b ≠ .changes)
    (hWhole : b.whole = false) (hCounter : b = .timing → t.timing.frameCounter = s.timing.frameCounter)
    (h : CommitQueueLegal s.timing.frameCounter s.commitQueue) :
    CommitQueueLegal t.timing.frameCounter t.commitQueue := by
  cases b
  case changes | softReset | boundary | deviceReset | port => contradiction
  case timing =>
    rw [hCounter rfl]
    rw [Block.Frame] at hFrame
    rw [hFrame]
    exact h
  all_goals
    rw [Block.Frame] at hFrame
    rw [hFrame]
    exact h

/-! #### The take, by the head of the queue (R119) -/

theorem take_of_empty {u : State} (hQueue : u.commitQueue = []) : u.take = u := by
  simp only [State.take, hQueue]

theorem take_of_ahead {u : State} {x : ChangeSet} {rest : List ChangeSet} (hQueue : u.commitQueue = x :: rest)
    (hAhead : after x.due u.frame = true) : u.take = u := by
  simp only [State.take, hQueue, if_pos hAhead]

theorem take_of_failing {u : State} {x : ChangeSet} {rest : List ChangeSet} (hQueue : u.commitQueue = x :: rest)
    (hDue : ¬ after x.due u.frame = true) {r : ChangeRecord}
    (hFails : firstFailing { u with commitQueue := rest } x.id.port x.session x.records = some r) :
    u.take = State.rejectSet x r { u with commitQueue := rest } := by
  simp only [State.take, hQueue, if_neg hDue, hFails]

theorem take_of_owned {u : State} {x : ChangeSet} {rest : List ChangeSet} (hQueue : u.commitQueue = x :: rest)
    (hDue : ¬ after x.due u.frame = true)
    (hOwned : firstFailing { u with commitQueue := rest } x.id.port x.session x.records = none) :
    u.take = State.applySet x { u with commitQueue := rest } := by
  simp only [State.take, hQueue, if_neg hDue, hOwned]

theorem rejectSet_commitQueue (x : ChangeSet) (r : ChangeRecord) (u : State) :
    (u.rejectSet x r).commitQueue = u.commitQueue := by
  unfold State.rejectSet
  split <;> rfl

theorem take_commitQueue_of_due {u : State} {x : ChangeSet} {rest : List ChangeSet} (hQueue : u.commitQueue = x :: rest)
    (hDue : ¬ after x.due u.frame = true) : u.take.commitQueue = rest := by
  rcases hFails : firstFailing { u with commitQueue := rest } x.id.port x.session x.records with _ | r
  · rw [take_of_owned hQueue hDue hFails]
    rfl
  · rw [take_of_failing hQueue hDue hFails, rejectSet_commitQueue]

/-- The boundary's queue: the head leaves when it is due in the frame begun. -/
theorem commitQueue_boundary (s : State) : (execState .outputFrameBoundary s).commitQueue
    = match s.commitQueue with
      | [] => []
      | x :: rest => if after x.due (s.timing.frameCounter + 1) then x :: rest else rest := by
  let u := s.drainRaised.beginFrame.selectorBoundary.fixFrame.readStores
  have hFrame : u.frame = s.timing.frameCounter + 1 := by
    simp [u, State.frame, State.fixFrame, State.beginFrame]
  have hTaken : (execState .outputFrameBoundary s).commitQueue = u.take.commitQueue := by
    simp [u, execState, exec, execOutputFrameBoundary]
  have hKept : u.commitQueue = s.commitQueue := by simp [u]
  rw [hTaken]
  rcases hQueue : s.commitQueue with _ | ⟨x, rest⟩
  · rw [take_of_empty (hKept.trans hQueue), hKept, hQueue]
  · by_cases hAhead : after x.due (s.timing.frameCounter + 1) = true
    · rw [take_of_ahead (hKept.trans hQueue) (hFrame ▸ hAhead), hKept, hQueue]
      simp only [if_pos hAhead]
    · rw [take_commitQueue_of_due (hKept.trans hQueue) (hFrame ▸ hAhead)]
      simp only [if_neg hAhead]

theorem frameCounter_boundary (s : State) :
    (execState .outputFrameBoundary s).timing.frameCounter = s.timing.frameCounter + 1 := by
  simp [execState, exec, execOutputFrameBoundary, State.fixFrame, State.beginFrame]

theorem keptByBlocks_commitsLegal : KeptByBlocks (fun b => !b.whole) CommitsLegal where
  frame _ hOwn hWhole := by
    rw [hWhole] at hOwn
    contradiction
  handle s c p ps span hWhole h hSession := by
    refine ⟨keptByBlocks_fits.anyHandle s c p ps span h.fits hSession, ?_⟩
    by_cases hOwn : c.block = .changes
    · exact h.handle_changes hOwn p ps span
    · exact commitQueueLegal_of_frame (frame_handle s p ps span c) hOwn (by simpa using hWhole)
        (fun hTiming => frameCounter_handle_timing hTiming s p ps span) h.legal
  row s i hWhole h := by
    have hPort : rowBlock i ≠ .port := by
      intro hPort
      rw [hPort] at hWhole
      contradiction
    refine ⟨keptByBlocks_fits.anyRow i s hPort h.fits, ?_⟩
    by_cases hOwn : rowBlock i = .changes
    · match i, hOwn with
      | .chmSessionEndNotice p, _ =>
        simp only [execState, exec, execChmSessionEndNotice]
        split
        · exact h.legal
        · exact h.legal.sublist List.filter_sublist
    · exact commitQueueLegal_of_frame (frame_row s i) hOwn (by simpa using hWhole)
        (fun hTiming => frameCounter_row_timing hTiming s) h.legal
  beginSoftReset _ p h := ⟨h.fits.beginSoftReset p, h.legal⟩
  reachBlock s b h := by
    refine ⟨h.fits.reachBlock b, ?_⟩
    cases b
    case selector =>
      rw [State.reachBlock, State.softResetSelector, State.recompute_frame]
      exact h.legal
    case changeManager => exact h.legal.sublist (List.nil_sublist _)
    all_goals exact h.legal
  boundary s h := by
    refine ⟨h.fits.boundary, ?_⟩
    rw [frameCounter_boundary, commitQueue_boundary]
    have hTick (q : List ChangeSet) (hq : s.commitQueue = q) :=
      CommitQueueLegal.tick (q := q) (hq ▸ h.legal) (hq ▸ h.length_le)
    rcases hQueue : s.commitQueue with _ | ⟨x, rest⟩
    · exact hTick [] hQueue
    · exact hTick (x :: rest) hQueue
  initial straps := ⟨keptByBlocks_fits.initial straps, List.Pairwise.nil, fun i x hx => by simp [State.initial] at hx⟩
  waiting _ _ _ h := ⟨{ h.fits with }, h.legal⟩

theorem keptByPorts_commitsLegal : KeptByPorts CommitsLegal where
  advance s e h := ⟨keptByPorts_fits.advance s e h.fits, h.legal⟩
  renewLease s p h := ⟨keptByPorts_fits.renewLease s p h.fits, by rw [State.renewLease_frame]; exact h.legal⟩
  onPort s p f h hf := ⟨keptByPorts_fits.onPort s p f h.fits hf, h.legal⟩
  settle s p t k h := ⟨keptByPorts_fits.settle s p t k h.fits, by rw [State.settle_frame]; exact h.legal⟩
  beginTransaction s p h := ⟨keptByPorts_fits.beginTransaction s p h.fits, h.legal⟩

/-- Settles O55: every collection takes what it has room for, in its place, and the queue of commits moves up by a frame
at a boundary. -/
theorem everyStepKeepsTheCapacities : Obligations.EveryStepKeepsTheCapacities := by
  refine ⟨fun s t h hStep => ?_, fun s t hFits hForms hStep => ?_⟩
  · exact (fits_iff t).mp (keptByBlocks_fits.step keptByPorts_fits ((fits_iff s).mpr h) hStep)
  · obtain ⟨hFormed, hLegal⟩ := (collectionsLegal_iff s).mp hForms
    refine (collectionsLegal_iff t).mpr ⟨?_, ?_⟩
    · refine keptByBlocks_formed.step (keptByPorts_of_quiet fun hQuiet h => ?_) hFormed hStep
      rw [hQuiet]
      exact { h with }
    · exact (keptByBlocks_commitsLegal.step keptByPorts_commitsLegal ⟨(fits_iff s).mpr hFits, hLegal⟩ hStep).legal

end Sys2Proof.Machine
end

section
/-! The selection (R38, R41, R43, R45, R50): rows stay true to their presence because every report of a source reaches
them, and the selector is on an admitted row because a recomputation names no other. -/

namespace Sys2Proof.Machine

/-! ### The invariant in two parts: rows against their sources, and the selector by itself -/

/-- A row is ABSENT exactly while it is not present. -/
def RowsTrue (s : State) : Prop := ∀ r, (s.row r).qualification = .absent ↔ s.rowPresent r = false

/-- The selector may be on row `r`: it is not locked out, and QUALIFIED, or not ABSENT under the FORCE in the slot. -/
def Admits (l : Selector) (r : RowIx) : Prop :=
  (l.table.get r).lockout = false ∧ ((l.table.get r).qualification = .qualified
    ∨ (l.table.get r).qualification ≠ .absent ∧ ∃ q, l.request = some q ∧ q.kind = .force ∧ q.row = r)

/-- What a selector has before a recomputation: nothing is asked of the row it is on. -/
structure SelectorReady (l : Selector) : Prop where
  timer : ∀ r, (l.table.get r).restoreTimer.isSome = true ↔ (l.table.get r).qualification = .waiting
  request : ∀ q, l.request = some q → (l.table.get q.row).lockout = false
  holdover : l.state = .holdover → l.holdoverSince.isSome = true

/-- What a selector has after every step. -/
structure SelectorLegal (l : Selector) : Prop extends SelectorReady l where
  state : ∀ r, l.state.row = some r → Admits l r

theorem selectionLegal_iff (s : State) : SelectionLegal s ↔ RowsTrue s ∧ SelectorLegal s.selector := by
  constructor
  · rintro ⟨hRows, hTimer, hRequest, hState, hHoldover⟩
    refine ⟨hRows, ⟨hTimer, hRequest, hHoldover⟩, fun r hr => ?_⟩
    obtain ⟨hLockout, hRow⟩ := hState r hr
    refine ⟨hLockout, hRow.imp_right fun ⟨hPresent, hForce⟩ => ⟨?_, hForce⟩⟩
    exact mt (hRows r).mp (by simp [hPresent])
  · rintro ⟨hRows, hLegal⟩
    refine ⟨hRows, hLegal.timer, hLegal.request, fun r hr => ?_, hLegal.holdover⟩
    obtain ⟨hLockout, hRow⟩ := hLegal.state r hr
    refine ⟨hLockout, hRow.imp_right fun ⟨hNotAbsent, hForce⟩ => ⟨?_, hForce⟩⟩
    simpa using mt (hRows r).mpr hNotAbsent

/-! ### Presence -/

/-- Presence is seen from the table, the receivers and the word-clock monitor alone (R39). -/
theorem rowPresent_congr {s t : State} (hTable : t.selector.table = s.selector.table)
    (hMonitor : t.selector.monitor.present = s.selector.monitor.present)
    (hLinks : ∀ n g, t.linkPresent n g = s.linkPresent n g) (r : RowIx) : t.rowPresent r = s.rowPresent r := by
  unfold State.rowPresent State.row
  rw [hTable]
  cases (s.selector.table.get r).source <;> simp only [hLinks, hMonitor]

theorem linkPresent_congr {s t : State} (h : t.receivers = s.receivers) (n : Link) (g : Grade) :
    t.linkPresent n g = s.linkPresent n g := by
  unfold State.linkPresent
  rw [h]

theorem RowsTrue.congr {s t : State} (h : RowsTrue s) (hTable : t.selector.table = s.selector.table)
    (hMonitor : t.selector.monitor.present = s.selector.monitor.present)
    (hLinks : ∀ n g, t.linkPresent n g = s.linkPresent n g) : RowsTrue t := by
  intro r
  rw [rowPresent_congr hTable hMonitor hLinks]
  have hRow : t.row r = s.row r := congrArg (Tab.get · r) hTable
  rw [hRow]
  exact h r

/-! ### Moves (R47) -/

theorem SelectorReady.enterLocking {s : State} (h : SelectorReady s.selector) {k : RowIx} (hk : Admits s.selector k)
    (why : RefReason) : SelectorLegal (s.enterLocking k why).selector where
  timer := h.timer
  request := h.request
  holdover hState := by contradiction
  state r hr := by
    cases hr
    exact hk

theorem SelectorReady.enterHoldover {s : State} (h : SelectorReady s.selector) (why : RefReason) :
    SelectorLegal (s.enterHoldover why).selector where
  timer := h.timer
  request := h.request
  holdover _ := rfl
  state r hr := by contradiction

theorem SelectorReady.enterFreeRun {s : State} (h : SelectorReady s.selector) : SelectorLegal s.enterFreeRun.selector where
  timer := h.timer
  request := h.request
  holdover hState := by contradiction
  state r hr := by contradiction

theorem SelectorReady.moveTo {s : State} (h : SelectorReady s.selector) {t : Option RowIx}
    (ht : ∀ k, t = some k → Admits s.selector k) : SelectorLegal (s.moveTo t).selector := by
  rcases t with _ | k
  · rcases hRow : s.selector.state.row with _ | r
    · rw [moveTo_none_of_no_row hRow]
      exact { h with state := fun r hr => by rw [hRow] at hr; contradiction }
    · rw [moveTo_none_of_row hRow]
      exact h.enterHoldover _
  · by_cases hRow : s.selector.state.row = some k
    · rw [moveTo_current hRow]
      refine { h with state := fun r hr => ?_ }
      rw [hRow] at hr
      exact ht r hr
    · rw [moveTo_other hRow]
      exact h.enterLocking (ht k rfl) _

/-! ### The target (R46) -/

theorem admits_of_eligible {s : State} {r : RowIx} (h : s.eligible r = true) : Admits s.selector r := by
  simp only [State.eligible, Bool.and_eq_true, beq_iff_eq, Bool.not_eq_eq_eq_not, Bool.not_true] at h
  exact ⟨h.2, .inl h.1⟩

theorem admits_ownTarget {s : State} {k : RowIx} (h : s.ownTarget = some k) : Admits s.selector k := by
  refine admits_of_eligible ?_
  by_cases hKeeps : KeepsCurrentRow s
  · rw [ownTarget_of_keeps hKeeps] at h
    obtain ⟨-, j, hRow, hEligible⟩ := hKeeps
    rw [hRow] at h
    cases h
    exact hEligible
  · rw [ownTarget_of_not_keeps hKeeps] at h
    exact ((bestRow_eq_some s k).mp h).1

/-- The slot may change in a recomputation, by the withdrawal of a MANUAL alone. -/
theorem SelectorReady.dropRequest {s : State} (h : SelectorReady s.selector) (why : DropReason) :
    SelectorReady (s.dropRequest why).selector := by
  rcases hSlot : s.selector.request with _ | q
  · simp only [State.dropRequest, hSlot]
    exact h
  · rw [dropRequest_of_some s q why hSlot]
    exact { h with request := fun q hq => by contradiction }

/-- After the withdrawal of an unqualified MANUAL, the target is an admitted row, if it is a row. -/
theorem admits_target {s : State} (hRows : RowsTrue s) (h : SelectorReady s.selector) :
    SelectorReady s.withdrawUnqualified.selector
      ∧ ∀ k, s.withdrawUnqualified.target = some k → Admits s.withdrawUnqualified.selector k := by
  rcases hStanding : s.standing with _ | q
  · rw [withdrawUnqualified_of_not_standing hStanding, target_of_not_standing hStanding]
    exact ⟨h, fun k => admits_ownTarget⟩
  obtain ⟨hSlot, -⟩ := (standing_eq_some s q).mp hStanding
  cases hKind : q.kind with
  | force =>
    rw [withdrawUnqualified_of_force hStanding hKind, target_of_force hStanding hKind]
    refine ⟨h, fun k hk => ?_⟩
    split at hk
    · next hPresent =>
      cases hk
      exact ⟨h.request q hSlot, .inr ⟨mt (hRows q.row).mp (by simp [hPresent]), q, hSlot, hKind, rfl⟩⟩
    · contradiction
  | manual =>
    by_cases hQualified : (s.row q.row).qualification = .qualified
    · rw [withdrawUnqualified_of_qualified hStanding hQualified, target_of_manual hStanding hKind]
      refine ⟨h, fun k hk => ?_⟩
      cases hk
      exact ⟨h.request q hSlot, .inl hQualified⟩
    · rw [withdrawUnqualified_of_unqualified_manual hStanding hKind hQualified,
        target_of_not_standing (dropRequest_not_standing s _)]
      exact ⟨h.dropRequest _, fun k => admits_ownTarget⟩

/-- A selector ready for a recomputation, its rows true. -/
def SelectionReady (s : State) : Prop := RowsTrue s ∧ SelectorReady s.selector

/-- The rows true and the selector legal, which is SelectionLegal. -/
def SelectionKept (s : State) : Prop := RowsTrue s ∧ SelectorLegal s.selector

theorem SelectionKept.ready {s : State} (h : SelectionKept s) : SelectionReady s := ⟨h.1, h.2.toSelectorReady⟩

/-- Every recomputation leaves the selector on an admitted row or on none (R46, R47). -/
theorem SelectionReady.recompute {s : State} (h : SelectionReady s) : SelectionKept s.recompute := by
  obtain ⟨hReady, hTarget⟩ := admits_target h.1 h.2
  exact ⟨h.1.congr (by simp) (by simp) (linkPresent_congr (by simp)), hReady.moveTo hTarget⟩

theorem SelectionReady.recomputeFailed {s : State} (h : SelectionReady s) : SelectionKept s.recomputeFailed := by
  obtain ⟨hReady, hTarget⟩ := admits_target h.1 h.2
  refine ⟨h.1.congr (by simp) (by simp) (linkPresent_congr (by simp)), ?_⟩
  unfold State.recomputeFailed
  simp only
  split
  · exact hReady.enterHoldover _
  · next k hk => exact hReady.enterLocking (hTarget k hk) _

/-! ### Rows following their sources (R39, R41) -/

theorem follow_absent_iff (w : CandidateRow) (present : Bool) (wait : Nat) (now : Time) :
    (w.follow present wait now).qualification = .absent ↔ present = false := by
  unfold CandidateRow.follow CandidateRow.load
  cases hq : w.qualification <;> cases present <;> simp [hq]
  split <;> simp

theorem load_timer (w : CandidateRow) (wait : Nat) (now : Time) :
    (w.load wait now).restoreTimer.isSome = true ↔ (w.load wait now).qualification = .waiting := by
  unfold CandidateRow.load
  split <;> simp

theorem load_not_absent (w : CandidateRow) (wait : Nat) (now : Time) : (w.load wait now).qualification ≠ .absent := by
  unfold CandidateRow.load
  split <;> simp

theorem follow_timer {w : CandidateRow} (h : w.restoreTimer.isSome = true ↔ w.qualification = .waiting) (present : Bool)
    (wait : Nat) (now : Time) : (w.follow present wait now).restoreTimer.isSome = true
      ↔ (w.follow present wait now).qualification = .waiting := by
  unfold CandidateRow.follow
  split
  · exact load_timer w wait now
  · simp
  · simp
  · exact h

theorem follow_kept (w : CandidateRow) (present : Bool) (wait : Nat) (now : Time) :
    (w.follow present wait now).source = w.source ∧ (w.follow present wait now).gradeLimit = w.gradeLimit
      ∧ (w.follow present wait now).lockout = w.lockout := by
  unfold CandidateRow.follow CandidateRow.load
  repeat' split
  all_goals exact ⟨rfl, rfl, rfl⟩

/-- Whatever the sources have become, a report makes the rows true to them. -/
theorem SelectorLegal.reportSources {s : State} (h : SelectorLegal s.selector) : SelectionKept s.reportSources := by
  have hRow (r : RowIx) : s.followedTable.get r = (s.row r).follow (s.rowPresent r) s.selector.restoreWait s.now := by
    rw [State.followedTable, Tab.get_tabulate]
  unfold State.reportSources
  split
  · next hSame =>
    refine ⟨fun r => ?_, h⟩
    have hFollowed := hRow r
    rw [hSame] at hFollowed
    rw [State.row, hFollowed]
    exact follow_absent_iff _ _ _ _
  · refine SelectionReady.recompute ⟨fun r => ?_, fun r => ?_, fun q hq => ?_, h.holdover⟩
    · have hPresent : State.rowPresent (s.onSelector fun l => { l with table := s.followedTable }) r = s.rowPresent r := by
        obtain ⟨hSource, hLimit, -⟩ := follow_kept (s.row r) (s.rowPresent r) s.selector.restoreWait s.now
        have hFollowed : State.row (s.onSelector fun l => { l with table := s.followedTable }) r = _ := hRow r
        rw [← sourcePresent_eq_rowPresent, ← sourcePresent_eq_rowPresent, hFollowed, hSource, hLimit]
        rfl
      rw [hPresent, State.row, State.onSelector_selector, hRow]
      exact follow_absent_iff _ _ _ _
    · simp only [State.onSelector_selector, hRow]
      exact follow_timer (h.timer r) _ _ _
    · simp only [State.onSelector_selector, hRow, follow_kept]
      exact h.request q hq

/-! ### Withdrawals, and the commands on the request (R54 to R57) -/

theorem SelectionReady.congr {s t : State} (h : SelectionReady s) (hSelector : t.selector = s.selector)
    (hReceivers : t.receivers = s.receivers) : SelectionReady t :=
  ⟨h.1.congr (by rw [hSelector]) (by rw [hSelector]) (linkPresent_congr hReceivers), by rw [hSelector]; exact h.2⟩

theorem SelectionKept.congr {s t : State} (h : SelectionKept s) (hSelector : t.selector = s.selector)
    (hReceivers : t.receivers = s.receivers) : SelectionKept t :=
  ⟨h.1.congr (by rw [hSelector]) (by rw [hSelector]) (linkPresent_congr hReceivers), by rw [hSelector]; exact h.2⟩

/-- Another request in the slot, or none: the rows do not see it. -/
theorem SelectionReady.withRequest {s t : State} (h : SelectionReady s) {slot : Option Request}
    (hSelector : t.selector = { s.selector with request := slot }) (hReceivers : t.receivers = s.receivers)
    (hSlot : ∀ q, slot = some q → (s.row q.row).lockout = false) : SelectionReady t := by
  refine ⟨h.1.congr (by rw [hSelector]) (by rw [hSelector]) (linkPresent_congr hReceivers), ?_⟩
  rw [hSelector]
  exact { h.2 with request := hSlot }

theorem SelectionReady.dropRequest {s : State} (h : SelectionReady s) (why : DropReason) :
    SelectionReady (s.dropRequest why) :=
  ⟨h.1.congr (by simp) (by simp) (linkPresent_congr (by simp)), h.2.dropRequest why⟩

theorem SelectionReady.withdraw {s : State} (h : SelectionReady s) (why : DropReason) : SelectionReady (s.withdraw why) := by
  rcases hSlot : s.selector.request with _ | q
  · rw [withdraw_of_none s why hSlot]
    exact h
  · rw [withdraw_of_some s q why hSlot]
    exact h.withRequest rfl rfl (by simp)

theorem withdraw_selector (s : State) (why : DropReason) :
    (s.withdraw why).selector = { s.selector with request := none } := by
  rcases hSlot : s.selector.request with _ | q
  · rw [withdraw_of_none s why hSlot, ← hSlot]
  · rw [withdraw_of_some s q why hSlot]

theorem withdraw_receivers (s : State) (why : DropReason) : (s.withdraw why).receivers = s.receivers := by
  have hFrame := frame_withdraw s why
  rw [Block.Frame] at hFrame
  rw [hFrame]

theorem SelectionReady.placeRequest {s : State} (h : SelectionReady s) (kind : RequestKind) {r : RowIx} (p : Port)
    (hLockout : ¬ (s.row r).lockout = true) : SelectionKept (placeRequest kind r p s).1 := by
  unfold Machine.placeRequest
  refine SelectionReady.recompute ?_
  have hRow : (s.row r).lockout = false := by simpa using hLockout
  split
  · exact h.withRequest rfl rfl fun q hq => by cases hq; exact hRow
  · refine (h.withdraw .superseded).withRequest rfl rfl fun q hq => ?_
    cases hq
    rw [State.row, withdraw_selector]
    exact hRow

theorem SelectionKept.refForceHandler {s : State} (h : SelectionKept s) (p : Port) (ps : List Byte) :
    SelectionKept (refForceHandler p ps s).1 := by
  unfold Machine.refForceHandler
  repeat' split
  all_goals first | exact h | exact h.ready.placeRequest _ p ‹_›

theorem SelectionKept.refManualHandler {s : State} (h : SelectionKept s) (p : Port) (ps : List Byte) :
    SelectionKept (refManualHandler p ps s).1 := by
  unfold Machine.refManualHandler
  repeat' split
  all_goals first | exact h | exact h.ready.placeRequest _ p ‹¬ (s.row _).lockout = true›

theorem SelectionKept.refClearHandler {s : State} (h : SelectionKept s) (p : Port) :
    SelectionKept (refClearHandler p s).1 := by
  unfold Machine.refClearHandler
  repeat' split
  · exact h
  · refine SelectionReady.recompute (h.ready.withRequest (slot := none) ?_ ?_ (by simp)) <;> rfl
  · exact (h.ready.dropRequest .cleared).recompute
  · exact h

/-! ### The configuration commands (R42 to R44) -/

/-- One row of the table replaced, the others and the selector's other fields kept. -/
theorem SelectionReady.withRow {s t : State} (h : SelectionReady s) {r : RowIx} {w : CandidateRow}
    (hSelector : t.selector = { s.selector with table := s.selector.table.put r w }) (hReceivers : t.receivers = s.receivers)
    (hRow : w.qualification = .absent ↔ sourcePresent s w.source w.gradeLimit = false)
    (hTimer : w.restoreTimer.isSome = true ↔ w.qualification = .waiting)
    (hLockout : ∀ q, s.selector.request = some q → q.row = r → w.lockout = false) : SelectionReady t := by
  have hGet (k : RowIx) : t.row k = if k = r then w else s.row k := by
    rw [State.row, hSelector, Tab.get_put]
    rfl
  have hPresent (source : RefSource) (limit : Grade) : sourcePresent t source limit = sourcePresent s source limit := by
    simp only [sourcePresent, hSelector, hReceivers]
  refine ⟨fun k => ?_, ?_⟩
  · rw [← sourcePresent_eq_rowPresent, hPresent, hGet]
    split
    · exact hRow
    · rw [sourcePresent_eq_rowPresent]
      exact h.1 k
  · rw [hSelector]
    refine { h.2 with timer := fun k => ?_, request := fun q hq => ?_ }
    all_goals simp only [Tab.get_put]
    · split
      · exact hTimer
      · exact h.2.timer k
    · split
      · next hk => exact hLockout q hq hk
      · exact h.2.request q hq

/-- A command that changes row `r` and may withdraw the request: what it leaves before its recomputation. -/
theorem SelectionReady.withRowAndSlot {s t : State} (h : SelectionReady s) {r : RowIx} {w : CandidateRow}
    {slot : Option Request} (hSlot : slot = s.selector.request ∨ slot = none)
    (hSelector : t.selector = { s.selector with table := s.selector.table.put r w, request := slot })
    (hReceivers : t.receivers = s.receivers)
    (hRow : w.qualification = .absent ↔ sourcePresent s w.source w.gradeLimit = false)
    (hTimer : w.restoreTimer.isSome = true ↔ w.qualification = .waiting)
    (hLockout : ∀ q, slot = some q → q.row = r → w.lockout = false) : SelectionReady t := by
  have hWithSlot : SelectionReady { s with selector := { s.selector with request := slot } } := by
    refine h.withRequest rfl rfl fun q hq => ?_
    rcases hSlot with rfl | rfl
    · exact h.2.request q hq
    · contradiction
  exact hWithSlot.withRow hSelector hReceivers hRow hTimer hLockout

/-- What REF_TABLE and REF_LOCKOUT leave of the slot: a request withdrawn under a condition. -/
theorem withdraw_if {c : Prop} [Decidable c] (s : State) (why : DropReason) :
    ∃ slot, (slot = s.selector.request ∧ ¬ c ∨ slot = none)
      ∧ (if c then s.withdraw why else s).selector = { s.selector with request := slot }
      ∧ (if c then s.withdraw why else s).receivers = s.receivers := by
  split
  · exact ⟨none, .inr rfl, withdraw_selector s why, withdraw_receivers s why⟩
  · next hc => exact ⟨_, .inl ⟨rfl, hc⟩, rfl, rfl⟩

/-- A row's new source and grade limit, before it qualifies anew (R42). -/
def CandidateRow.edit (source : RefSource) (limit : Grade) (w : CandidateRow) : CandidateRow :=
  { w with source := source, gradeLimit := limit, qualification := .absent, restoreTimer := none }

/-- Row `r` edited, a request perhaps withdrawn, and the row following its presence: what REF_TABLE recomputes from. -/
theorem SelectionReady.edited {s u : State} (h : SelectionReady s) {r : RowIx} {source : RefSource} {limit : Grade}
    {slot : Option Request} (hSlot : slot = s.selector.request ∨ slot = none)
    (hSelector : u.selector = { s.selector with
      table := s.selector.table.modify r (CandidateRow.edit source limit), request := slot })
    (hReceivers : u.receivers = s.receivers) :
    SelectionReady (u.onRow r fun w => w.follow (u.rowPresent r) u.selector.restoreWait u.now) := by
  have hRow : u.row r = (s.row r).edit source limit := by
    rw [State.row, hSelector]
    simp [State.row]
  obtain ⟨hSource, hLimit, hLockout⟩ := follow_kept (u.row r) (u.rowPresent r) u.selector.restoreWait u.now
  refine h.withRowAndSlot (r := r) (w := (u.row r).follow (u.rowPresent r) u.selector.restoreWait u.now) hSlot
    ?selector hReceivers ?row ?timer ?lockout
  case selector =>
    rw [hRow]
    simp only [State.onRow, State.onSelector_selector, hSelector, Tab.modify, Tab.put_put, Tab.get_put, if_true]
    rfl
  case row =>
    have hPresent : sourcePresent s (u.row r).source (u.row r).gradeLimit = u.rowPresent r := by
      rw [← sourcePresent_eq_rowPresent]
      simp only [sourcePresent, hSelector, hReceivers]
    rw [follow_absent_iff, hSource, hLimit, hPresent]
  case timer => exact follow_timer (by rw [hRow]; simp [CandidateRow.edit]) _ _ _
  case lockout =>
    intro q hq hqr
    rw [hLockout, hRow]
    rcases hSlot with rfl | rfl
    · exact hqr ▸ h.2.request q hq
    · contradiction

theorem SelectionKept.refTableHandler {s : State} (h : SelectionKept s) (ps : List Byte) :
    SelectionKept (refTableHandler ps s).1 := by
  unfold Machine.refTableHandler
  split
  · split
    · next r source limit _ _ _ =>
      obtain ⟨slot, hSlot, hSelector, hReceivers⟩ :=
        withdraw_if (c := s.selector.request.map (·.row) = some r)
          (s.onRow r (CandidateRow.edit source limit)) .rowEdited
      exact (h.ready.edited (hSlot.imp_left And.left) hSelector hReceivers).recompute
    · exact h
  · exact h

/-- A lockout replaced, a request that names a row now locked out withdrawn (R43). -/
theorem SelectionKept.refLockoutHandler {s : State} (h : SelectionKept s) (ps : List Byte) :
    SelectionKept (refLockoutHandler ps s).1 := by
  unfold Machine.refLockoutHandler
  split
  · split
    · next r v _ _ =>
      split
      · exact h
      · obtain ⟨slot, hSlot, hSelector, hReceivers⟩ :=
          withdraw_if (c := v = true ∧ s.selector.request.map (·.row) = some r)
            (s.onRow r fun w => { w with lockout := v }) .lockedOut
        refine SelectionReady.recompute (h.ready.withRowAndSlot (w := { s.row r with lockout := v })
          (hSlot.imp_left And.left) hSelector hReceivers ?row (h.2.timer r) ?lockout)
        case row =>
          rw [sourcePresent_eq_rowPresent]
          exact h.1 r
        case lockout =>
          intro q hq hqr
          rcases hSlot with ⟨hSame, hc⟩ | hNone
          · have hRequest : s.selector.request = some q := hSame ▸ hq
            simpa [hRequest, hqr] using hc
          · rw [hNone] at hq
            contradiction
    · exact h
  · exact h

/-- Fields that neither rows nor slot nor state look at. -/
theorem SelectionKept.withSettings {s t : State} (h : SelectionKept s) (hReceivers : t.receivers = s.receivers)
    (hTable : t.selector.table = s.selector.table) (hMonitor : t.selector.monitor = s.selector.monitor)
    (hRequest : t.selector.request = s.selector.request) (hState : t.selector.state = s.selector.state)
    (hSince : t.selector.holdoverSince = s.selector.holdoverSince) : SelectionKept t := by
  refine ⟨h.1.congr hTable (by rw [hMonitor]) (linkPresent_congr hReceivers), ⟨?_, ?_, ?_⟩, ?_⟩
  · rw [hTable]; exact h.2.timer
  · rw [hTable, hRequest]; exact h.2.request
  · rw [hState, hSince]; exact h.2.holdover
  · intro r hr
    rw [hState] at hr
    rw [Admits, hTable, hRequest]
    exact h.2.state r hr

theorem SelectionKept.applyHoldoverLimit {s : State} (h : SelectionKept s) (limit : Nat) :
    SelectionKept (s.applyHoldoverLimit limit) := by
  have hFreeRun : SelectionKept s.enterFreeRun :=
    ⟨h.1.congr rfl rfl (linkPresent_congr rfl), h.2.toSelectorReady.enterFreeRun⟩
  unfold State.applyHoldoverLimit
  simp only
  split
  · split
    · exact h.withSettings rfl rfl rfl rfl rfl rfl
    · split
      · exact hFreeRun
      · exact h.withSettings rfl rfl rfl rfl rfl rfl
  · exact h

theorem SelectionKept.ite {t u : State} {c : Prop} [Decidable c] (ht : SelectionKept t) (hu : SelectionKept u) :
    SelectionKept (if c then t else u) := by
  split
  · exact ht
  · exact hu

theorem SelectionKept.refModeHandler {s : State} (h : SelectionKept s) (ps : List Byte) :
    SelectionKept (refModeHandler ps s).1 := by
  unfold Machine.refModeHandler
  split
  · exact h
  · next m _ =>
    have hSet : SelectionKept (s.onSelector fun l => { l with
        revertive := m.revertive.getD l.revertive, restoreWait := m.restoreWait.getD l.restoreWait
        holdoverLimit := m.holdoverLimit.getD l.holdoverLimit, wclkGrade := m.wclkGrade.getD l.wclkGrade }) :=
      h.withSettings rfl rfl rfl rfl rfl rfl
    exact (hSet.ite (hSet.applyHoldoverLimit _)).ite (hSet.ite (hSet.applyHoldoverLimit _)).ready.recompute

theorem SelectionKept.handle_selector {s : State} (h : SelectionKept s) {c : Cmd} (hBlock : c.block = .selector)
    (p : Port) (ps : List Byte) (span : ResetSpan) : SelectionKept (c.handle p ps span s).1 := by
  match c, hBlock with
  | .refTable, _ => exact h.refTableHandler ps
  | .refLockout, _ => exact h.refLockoutHandler ps
  | .refMode, _ => exact h.refModeHandler ps
  | .refForce, _ => exact h.refForceHandler p ps
  | .refManual, _ => exact h.refManualHandler p ps
  | .refClear, _ => exact h.refClearHandler p

/-! ### The selector's rows of the table -/

theorem SelectionKept.restoreTimerExpiry {s : State} (h : SelectionKept s) (r : RowIx) :
    SelectionKept (execState (.restoreTimerExpiry r) s) := by
  simp only [execState, exec, execRestoreTimerExpiry]
  split
  · next hWaiting _ =>
    refine SelectionReady.recompute (h.ready.withRow (r := r)
      (w := { s.row r with qualification := .qualified, restoreTimer := none }) rfl rfl ?row (by simp) ?lockout)
    case row =>
      have hPresent := mt (h.1 r).mpr (by simp [hWaiting])
      simpa [sourcePresent_eq_rowPresent] using hPresent
    case lockout =>
      rintro q hq rfl
      exact h.2.request q hq
  · exact h

theorem SelectionKept.rslSessionEndNotice {s : State} (h : SelectionKept s) (p : Port) :
    SelectionKept (execState (.rslSessionEndNotice p) s) := by
  simp only [execState, exec, execRslSessionEndNotice]
  split
  · exact h
  · next notice rest _ =>
    split
    · split
      · have hTaken : SelectionReady { s with rslNotices := rest, raised := [] } := h.ready.congr rfl rfl
        refine SelectionReady.recompute ((hTaken.dropRequest .ownerEnded).congr ?_ ?_) <;> rfl
      · exact h
    · exact h

theorem SelectionKept.row_selector {s : State} (h : SelectionKept s) {i : Instr} (hBlock : rowBlock i = .selector) :
    SelectionKept (execState i s) := by
  match i, hBlock with
  | .wclkRisingEdge e, _ =>
    exact SelectorLegal.reportSources { h.2 with }
  | .wclkMissingInterval, _ =>
    simp only [execState, exec, execWclkMissingInterval]
    split
    · exact h
    · exact SelectorLegal.reportSources { h.2 with }
  | .restoreTimerExpiry r, _ => exact h.restoreTimerExpiry r
  | .holdoverTimerExpiry, _ =>
    simp only [execState, exec, execHoldoverTimerExpiry]
    split
    · exact ⟨h.1.congr rfl rfl (linkPresent_congr rfl), h.2.toSelectorReady.enterFreeRun⟩
    · exact h
  | .rslSessionEndNotice p, _ => exact h.rslSessionEndNotice p

/-! ### The receivers' rows: the selector is told, or presence is as it was -/

theorem linkPresent_outside {s : State} {n : Link} (h : (s.receivers.get n).state ≠ .inFrame) (g : Grade) :
    s.linkPresent n g = false := by
  simp [State.linkPresent, h]

theorem SelectionKept.onReceiver {s : State} (h : SelectionKept s) {n : Link} {f : Receiver → Receiver}
    (hPresent : ∀ g, (s.onReceiver n f).linkPresent n g = s.linkPresent n g) : SelectionKept (s.onReceiver n f) := by
  refine ⟨h.1.congr rfl rfl fun m g => ?_, h.2⟩
  by_cases hm : m = n
  · exact hm ▸ hPresent g
  · simp only [State.linkPresent, State.onReceiver_receivers, Tab.get_modify, if_neg hm]

/-- A receiver outside IN_FRAME before and after carries no reference. -/
theorem SelectionKept.onReceiver_outside {s : State} (h : SelectionKept s) {n : Link} {f : Receiver → Receiver}
    (hBefore : (s.receivers.get n).state ≠ .inFrame) (hAfter : (f (s.receivers.get n)).state ≠ .inFrame) :
    SelectionKept (s.onReceiver n f) := by
  refine h.onReceiver fun g => ?_
  rw [linkPresent_outside hBefore, linkPresent_outside]
  simpa using hAfter

/-- A receiver whose state, degraded flag and grade stand carries the reference it carried. -/
theorem SelectionKept.onReceiver_same {s : State} (h : SelectionKept s) {n : Link} {f : Receiver → Receiver}
    (hState : (f (s.receivers.get n)).state = (s.receivers.get n).state)
    (hDegraded : (f (s.receivers.get n)).degraded = (s.receivers.get n).degraded)
    (hGrade : (f (s.receivers.get n)).grade = (s.receivers.get n).grade) : SelectionKept (s.onReceiver n f) := by
  refine h.onReceiver fun g => ?_
  simp only [State.linkPresent, State.onReceiver_receivers, Tab.get_modify, if_true, hState, hDegraded, hGrade]

theorem SelectionKept.raiseLinkState {s : State} (h : SelectionKept s) (n : Link) : SelectionKept (s.raiseLinkState n) :=
  h.congr (by simp [State.raiseLinkState]) (by simp [State.raiseLinkState])

theorem SelectionKept.advance {s : State} (h : SelectionKept s) (e : Time) : SelectionKept (s.advance e) := h.congr rfl rfl

theorem selectorLegal_of_eq {s t : State} (h : SelectorLegal s.selector) (hSelector : t.selector = s.selector) :
    SelectorLegal t.selector := by
  rw [hSelector]
  exact h

theorem SelectionKept.row_receivers {s : State} (h : SelectionKept s) {i : Instr} (hBlock : rowBlock i = .receivers) :
    SelectionKept (execState i s) := by
  match i, hBlock with
  | .qualificationAbandoned n e, _ => exact (h.advance e).onReceiver_same rfl rfl rfl
  | .qualificationStart n e, _ =>
    simp only [execState, exec, execQualificationStart]
    split
    · exact (h.advance e).onReceiver_same rfl rfl rfl
    · exact h
  | .qualificationComplete n, _ =>
    simp only [execState, exec, execQualificationComplete]
    split
    · next t hState _ =>
      have hTime : SelectionKept (s.advanceTo (t + Config.quarterMillisecond)) := h.congr rfl rfl
      exact (hTime.onReceiver_outside (by simp [hState]) (by simp)).raiseLinkState n
    · exact h
  | .alignmentPatternFound n pos e, _ =>
    simp only [execState, exec, execAlignmentPatternFound]
    split
    · next hState =>
      exact ((h.advance e).onReceiver_outside (by rw [hState]; decide) (by simp)).raiseLinkState n
    · exact h
  | .lossOfSignal n e, _ =>
    simp only [execState, exec, execLossOfSignal]
    split
    case h_4 | h_5 => exact h
    all_goals exact (selectorLegal_of_eq h.2 (by simp)).reportSources
  | .confirmFrameArrival n pos f e, _ =>
    simp only [execState, exec, execConfirmFrameArrival]
    split
    · next hAt =>
      obtain ⟨hState, -⟩ := hAt
      repeat' split
      · exact (h.advance e).onReceiver_same rfl rfl rfl
      · exact (selectorLegal_of_eq h.2 (by simp [State.raiseLinkState])).reportSources
      · exact ((h.advance e).onReceiver_outside (by rw [hState]; decide) (by simp)).raiseLinkState n
    · exact h
  | .frameArrival n pos f e, _ =>
    simp only [execState, exec, execFrameArrival]
    split
    · refine SelectorLegal.reportSources (selectorLegal_of_eq h.2 ?_)
      repeat' split
      all_goals simp
    · exact h

theorem SelectionKept.linkConfigHandler {s : State} (h : SelectionKept s) (ps : List Byte) :
    SelectionKept (linkConfigHandler ps s).1 := by
  have hConfigured (n : Link) (on : Bool) : SelectionKept (s.configReceiver n on) := by
    unfold State.configReceiver
    split
    · next hState => exact (h.onReceiver_outside (by simp [hState]) (by simp)).raiseLinkState n
    · exact h
    · exact h
    · exact (selectorLegal_of_eq h.2 (by simp)).reportSources
  unfold Machine.linkConfigHandler
  repeat' split
  case h_1 n on _ _ _ _ => exact (hConfigured n on).congr (by simp) (by simp)
  all_goals exact h

/-! ### Counters, soft reset, and the boundary (R48, R49) -/

theorem SelectionKept.handle_counters {s : State} (h : SelectionKept s) {c : Cmd} (hBlock : c.block = .counters)
    (p : Port) (ps : List Byte) (span : ResetSpan) : SelectionKept (c.handle p ps span s).1 := by
  have hGroup (g : CounterGroup) : SelectionKept (s.clearGroup g) := by
    cases g with
    | link n => exact (h.onReceiver_same (n := n) (f := Receiver.clearCounters) rfl rfl rfl).congr rfl rfl
    | port q => exact h
  have hAll : SelectionKept s.clearAllCounters := by
    refine ⟨h.1.congr rfl rfl fun n g => ?_, h.2⟩
    simp only [State.linkPresent, State.clearAllCounters, Tab.get_map]
    rfl
  match c, hBlock with
  | .countersClear, _ =>
    simp only [Cmd.handle, countersClearHandler]
    repeat' split
    all_goals first | exact h | exact hAll | exact hGroup _

theorem SelectionKept.reachBlock {s : State} (h : SelectionKept s) (b : ResetBlock) : SelectionKept (s.reachBlock b) := by
  cases b
  case receiver n => exact (h.onReceiver_same (n := n) (f := Receiver.clearCounters) rfl rfl rfl).congr rfl rfl
  case selector =>
    refine SelectionReady.recompute (h.ready.withRequest (slot := none) ?_ ?_ (by simp)) <;> rfl
  all_goals exact h

theorem SelectionKept.captureFailure {s : State} (h : SelectionKept s) {r : RowIx}
    (hRow : s.selector.state.row = some r) : SelectionKept (s.captureFailure r) := by
  have hNotAbsent : (s.row r).qualification ≠ .absent := by
    rcases (h.2.state r hRow).2 with hQualified | ⟨hNotAbsent, -⟩
    · rw [State.row, hQualified]
      simp
    · exact hNotAbsent
  have hPresent : s.rowPresent r ≠ false := mt (h.1 r).mpr hNotAbsent
  have hKept : ((s.row r).load s.selector.restoreWait s.now).source = (s.row r).source
      ∧ ((s.row r).load s.selector.restoreWait s.now).gradeLimit = (s.row r).gradeLimit
      ∧ ((s.row r).load s.selector.restoreWait s.now).lockout = (s.row r).lockout := by
    unfold CandidateRow.load
    split <;> exact ⟨rfl, rfl, rfl⟩
  obtain ⟨hSource, hLimit, hLockout⟩ := hKept
  refine SelectionReady.recomputeFailed (h.ready.withRow (r := r)
    (w := (s.row r).load s.selector.restoreWait s.now) rfl rfl ?row (load_timer _ _ _) ?lockout)
  case row =>
    rw [hSource, hLimit, sourcePresent_eq_rowPresent]
    exact iff_of_false (load_not_absent _ _ _) hPresent
  case lockout =>
    rintro q hq rfl
    rw [hLockout]
    exact h.2.request q hq

theorem SelectionKept.selectorBoundary {s : State} (h : SelectionKept s) : SelectionKept s.selectorBoundary := by
  unfold State.selectorBoundary
  split
  · next r hState =>
    have hRow : s.selector.state.row = some r := by rw [hState]; rfl
    have hCounted : SelectionKept ((s.recordPhase r).onSelector fun l => { l with captureCount := l.captureCount + 1 }) :=
      h.withSettings rfl rfl rfl rfl rfl rfl
    unfold State.testCapture
    simp only
    split
    · refine ⟨hCounted.1.congr rfl rfl (linkPresent_congr rfl),
        { hCounted.2 with holdover := fun hHoldover => ?_, state := fun k hk => ?_ }⟩
      · contradiction
      · cases hk
        exact h.2.state r hRow
    · split
      · exact hCounted
      · exact hCounted.captureFailure hRow
  · next r hState =>
    have hRow : s.selector.state.row = some r := by rw [hState]; rfl
    have hRecorded : SelectionKept (s.recordPhase r) := h.withSettings rfl rfl rfl rfl rfl rfl
    unfold State.testLock
    simp only
    split
    · exact hRecorded
    · exact ⟨hRecorded.1.congr rfl rfl (linkPresent_congr rfl),
        hRecorded.2.toSelectorReady.enterLocking (h.2.state r hRow) _⟩
  · exact h
  · exact h

theorem SelectionKept.boundary {s : State} (h : SelectionKept s) : SelectionKept (execState .outputFrameBoundary s) := by
  have hStart : SelectionKept s.drainRaised.beginFrame := h.congr (by simp) (by simp)
  exact hStart.selectorBoundary.congr (by simp [execState, exec, execOutputFrameBoundary])
    (by simp [execState, exec, execOutputFrameBoundary])

/-! ### Every step -/

theorem keptByBlocks_selectionKept :
    KeptByBlocks (fun b => b ∈ [.selector, .receivers, .links, .counters]) SelectionKept where
  frame {b s t} hFrame hOwn hWhole h := by
    cases b <;> first | contradiction | (rw [Block.Frame] at hFrame; rw [hFrame]; exact h)
  handle s c p ps span hOwn h _ := by
    simp only [List.mem_cons, List.not_mem_nil, or_false, cmd_block_ne c, false_or, decide_eq_true_eq] at hOwn
    rcases hOwn with hBlock | hBlock | hBlock
    · exact h.handle_selector hBlock p ps span
    · match c, hBlock with
      | .linkConfig, _ => exact h.linkConfigHandler ps
    · exact h.handle_counters hBlock p ps span
  row s i hOwn h := by
    simp only [List.mem_cons, List.not_mem_nil, or_false, row_block_ne i, decide_eq_true_eq] at hOwn
    rcases hOwn with hBlock | hBlock
    · exact h.row_selector hBlock
    · exact h.row_receivers hBlock
  beginSoftReset _ _ h := h
  reachBlock _ b h := h.reachBlock b
  boundary _ h := h.boundary
  initial straps := by
    refine ⟨fun r => ?_, ⟨fun r => ?_, fun q hq => ?_, fun hHoldover => ?_⟩, fun r hr => ?_⟩
    · simp [State.rowPresent, State.row, State.initial, Selector.initial, CandidateRow.initial]
    · simp [State.initial, Selector.initial, CandidateRow.initial]
    all_goals contradiction
  waiting _ _ _ h := h

/-- Settles O59: each report of a source reaches the rows, and a recomputation follows whatever could take the selector's
row from it; a boundary alone moves it otherwise, on the same row or after a capture failure. -/
theorem everyStepKeepsTheSelectionLegal : Obligations.EveryStepKeepsTheSelectionLegal := by
  intro s t h hStep
  exact (selectionLegal_iff t).mpr (keptByBlocks_selectionKept.step
    (keptByPorts_of_quiet fun hQuiet h => by rw [hQuiet]; exact h) ((selectionLegal_iff s).mp h) hStep)

end Sys2Proof.Machine
end

section
/-! Commands taken: the response and the state follow from what the command's handler answers (R168, R169). Then the
short ones: WCLK_OUT, SET_EVENT_MASK, the saturating counts, and what reset starts from. -/

namespace Sys2Proof.Machine

/-! ### A command taken, by what it needs (R169) -/

section taken

variable {c : Cmd} {p : Port} {tag : Byte} {ps : List Byte} {s t : State} {r : Reply} (hReady : Ready p s)
include hReady

/-- A command that needs neither session nor right. -/
theorem exec_of_handle (hSession : c.needsSession = false) (hRight : c.needsRight = false)
    (hLength : c.lengthOk ps.length = true) (hHandle : c.handle p ps .whole (leased p s) = (t, r)) :
    exec (c.instr p tag ps) s = .next (answering p tag r t) := by
  rw [command_taken c p tag ps s hReady (by simp [hSession]) (by simp [hRight]) hLength, hHandle]

/-- A command on a port with an open session, the right not needed. -/
theorem exec_of_handle_session (hSession : HasSession p s) (hRight : c.needsRight = false)
    (hLength : c.lengthOk ps.length = true) (hHandle : c.handle p ps .whole (leased p s) = (t, r)) :
    exec (c.instr p tag ps) s = .next (answering p tag r t) := by
  rw [command_taken c p tag ps s hReady (fun _ => hSession) (by simp [hRight]) hLength, hHandle]

/-- Any command on a port that holds the configuration right. -/
theorem exec_of_handle_right (hRight : HasRight p s) (hLength : c.lengthOk ps.length = true)
    (hHandle : c.handle p ps .whole (leased p s) = (t, r)) :
    exec (c.instr p tag ps) s = .next (answering p tag r t) := by
  rw [command_taken c p tag ps s hReady (fun _ => hRight.1) (fun _ => hRight.2) hLength, hHandle]

end taken

/-! ### WCLK_OUT and the fall of the pulse (R37) -/

theorem wclkOutHandler_of_none (s : State) {b : Byte} (h : 1 < b.toNat) : wclkOutHandler [b] s = (s, badArg) := by
  simp only [wclkOutHandler, readOnOff_none b h]

/-- Settles O45: the handler's two values and its refusal, and the pulse's end where the pin is high. -/
theorem wordClockOutputFollowsItsSetting : Obligations.WordClockOutputFollowsItsSetting := by
  refine ⟨fun s p tag hReady hRight => ⟨?on, ?off, fun b hb => ?refused⟩, fun s hPin => ?fall⟩
  case on =>
    refine exec_of_handle_right (c := .wclkOut) hReady hRight rfl ?_
    rw [← leased_timing p s]
    rfl
  case off =>
    refine exec_of_handle_right (c := .wclkOut) hReady hRight rfl ?_
    rw [← leased_timing p s]
    rfl
  case refused => exact exec_of_handle_right (c := .wclkOut) hReady hRight rfl (wclkOutHandler_of_none _ hb)
  case fall =>
    rw [exec, execWclkOutFall, if_pos hPin]
    rfl

/-! ### SET_EVENT_MASK (R184) -/

theorem readMask_numByte (peer link slip ref : Bool) :
    readMask (numByte ((if peer then 1 else 0) + (if link then 2 else 0) + (if slip then 4 else 0) + (if ref then 8 else 0)))
      = some ⟨peer, link, slip, ref⟩ := by
  revert peer link slip ref
  decide

theorem mask_byte (m : EventMask) :
    m.byte = [numByte ((if m.peer then 1 else 0) + (if m.link then 2 else 0) + (if m.slip then 4 else 0)
      + (if m.ref then 8 else 0))] := by
  obtain ⟨peer, link, slip, ref⟩ := m
  revert peer link slip ref
  decide

theorem readMask_none {b : Byte} (h : 16 ≤ b.toNat) : readMask b = none := by
  unfold readMask
  simp [h]

/-- Settles O52: a mask byte below 16 is the mask of its four bits, and any other is refused. -/
theorem setEventMaskReplacesTheMask : Obligations.SetEventMaskReplacesTheMask := by
  intro s p tag peer link slip ref hReady hSession
  refine ⟨exec_of_handle_session (c := .setEventMask) hReady hSession rfl rfl ?mask, fun b hb =>
    exec_of_handle_session (c := .setEventMask) hReady hSession rfl rfl ?refused⟩
  case mask => simp only [Cmd.handle, setEventMaskHandler, readMask_numByte, mask_byte, leased_mask, ok]; rfl
  case refused => simp only [Cmd.handle, setEventMaskHandler, readMask_none hb]; rfl

/-! ### Counts that stay at 65,535 (R181, R191) -/

theorem bump_eq (c : Counter) : bump c = if c.toNat < 65535 then BitVec.ofNat 16 (c.toNat + 1) else c := by
  unfold bump
  by_cases h : c.toNat < 65535
  · rw [if_neg (by bv_omega), if_pos h]
    bv_omega
  · rw [if_pos (by bv_omega), if_neg h]

/-- Settles O24: the two claims are the one equation of `bump`. -/
theorem countsSaturateAt65535 : Obligations.CountsSaturateAt65535 := by
  refine ⟨fun c f k => ?_, fun c => ⟨fun h => ?_, fun h => ?_⟩⟩
  · simp only [EventRecord.countLost, bump_eq]
  · rw [bump_eq, if_pos h, BitVec.toNat_ofNat, Nat.mod_eq_of_lt (by omega)]
  · rw [bump_eq, if_neg (by omega)]

/-! ### Reset -/

/-- Settles O54: each invariant holds in the state DEVICE_RESET leaves under any straps, and reset is that state with both
straps low at every port. -/
theorem resetHasWhatEveryStepKeeps : Obligations.ResetHasWhatEveryStepKeeps := by
  have hLinks := (linksLegal_iff _).mp (keptByBlocks_linksLegal.initial (Tab.fill ⟨false, false⟩))
  have hForms := (collectionsLegal_iff State.reset).mpr
  have hFits := (fits_iff _).mp (keptByBlocks_fits.initial (Tab.fill ⟨false, false⟩))
  refine ⟨hFits, ?forms, keptByBlocks_eventQueuesLegal.initial _, keptByBlocks_claimsHeld.initial _, hLinks.2, hLinks.1,
    keptByBlocks_onlyActiveTransmittersSend.initial _,
    (selectionLegal_iff _).mpr (keptByBlocks_selectionKept.initial _), keptByBlocks_fadesLegal.initial _⟩
  case forms => exact hForms ⟨keptByBlocks_formed.initial _, (keptByBlocks_commitsLegal.initial _).legal⟩

end Sys2Proof.Machine
end

section
/-! The output frame boundary in its stages (R34, log 8): what was raised is queued, the frame begins, the selector tests
the phase, the stores are read, the head set is taken, the map is computed, and the transmitters send. -/

namespace Sys2Proof.Machine

/-! ### The stages -/

/-- What was raised is queued and the next frame has begun. -/
def frameBegun (s : State) : State := s.drainRaised.beginFrame

/-- The selector has tested the phase of the frame begun. -/
def phaseTested (s : State) : State := (frameBegun s).selectorBoundary

/-- The length is fixed and every store is read. -/
def storesRead (s : State) : State := (phaseTested s).fixFrame.readStores

/-- The state a boundary leaves. -/
def afterBoundary (s : State) : State := (storesRead s).take.computeMap.transmit

theorem exec_boundary (s : State) : exec .outputFrameBoundary s = .next (afterBoundary s) := rfl

section fields

variable (s : State)

@[simp] theorem frameBegun_selector : (frameBegun s).selector = s.selector := by simp [frameBegun]
@[simp] theorem frameBegun_receivers : (frameBegun s).receivers = s.receivers := by simp [frameBegun]
@[simp] theorem frameBegun_sessions : (frameBegun s).sessions = s.sessions := by simp [frameBegun]
@[simp] theorem frameBegun_everyone : (frameBegun s).everyone = s.everyone := by simp [frameBegun]
@[simp] theorem frameBegun_raised : (frameBegun s).raised = [] := by simp [frameBegun]

theorem frameBegun_now : (frameBegun s).now = max s.now (s.timing.begun + s.timing.frameLength) := by
  simp [frameBegun, State.beginFrame]

theorem frameBegun_timing : (frameBegun s).timing = { s.timing with
    frameCounter := s.timing.frameCounter + 1, begun := s.timing.begun + s.timing.frameLength } := by
  simp [frameBegun, State.beginFrame]

@[simp] theorem phaseTested_receivers : (phaseTested s).receivers = s.receivers := by simp [phaseTested]
@[simp] theorem phaseTested_timing : (phaseTested s).timing = (frameBegun s).timing := by simp [phaseTested]
@[simp] theorem phaseTested_everyone : (phaseTested s).everyone = s.everyone := by simp [phaseTested]

@[simp] theorem storesRead_claims : (storesRead s).claims = s.claims := by simp [storesRead, phaseTested, frameBegun]
@[simp] theorem storesRead_sessions : (storesRead s).sessions = s.sessions := by simp [storesRead, phaseTested, frameBegun]
@[simp] theorem storesRead_activeMap : (storesRead s).activeMap = s.activeMap := by
  simp [storesRead, phaseTested, frameBegun]
@[simp] theorem storesRead_commitQueue : (storesRead s).commitQueue = s.commitQueue := by
  simp [storesRead, phaseTested, frameBegun]

theorem storesRead_frame : (storesRead s).frame = s.timing.frameCounter + 1 := by
  simp [storesRead, State.frame, State.fixFrame, frameBegun_timing]

theorem storesRead_stores : (storesRead s).stores = s.stores.map fun e => e.boundary.store := by
  simp [storesRead, State.readStores, phaseTested, frameBegun]

theorem afterBoundary_now : (afterBoundary s).now = max s.now (s.timing.begun + s.timing.frameLength) := by
  simp [afterBoundary, storesRead, phaseTested, frameBegun_now]

theorem afterBoundary_selector : (afterBoundary s).selector = (phaseTested s).selector := by
  simp [afterBoundary, storesRead]

theorem afterBoundary_raised : (afterBoundary s).raised = (storesRead s).take.raised := by simp [afterBoundary]

theorem afterBoundary_stores : (afterBoundary s).stores = s.stores.map fun e => e.boundary.store := by
  simp [afterBoundary, storesRead_stores]

theorem afterBoundary_timing : (afterBoundary s).timing = { s.timing with
    frameCounter := s.timing.frameCounter + 1, begun := s.timing.begun + s.timing.frameLength
    frameLength := (phaseTested s).lengthOfFrame, heldPeriod := (phaseTested s).heldAfter
    wclkPin := s.timing.wclkEnable } := by
  simp [afterBoundary, storesRead, State.fixFrame, frameBegun_timing]

theorem afterBoundary_ports : (afterBoundary s).ports = s.drainRaised.ports := by
  simp [afterBoundary, storesRead, phaseTested, frameBegun]

theorem afterBoundary_events : (afterBoundary s).events = s.drainRaised.events := by
  simp [afterBoundary, storesRead, phaseTested, frameBegun]

/-- What a boundary names is all that it changes. -/
theorem afterBoundary_frame : afterBoundary s = { s with
    now := (afterBoundary s).now, stores := (afterBoundary s).stores, transmitters := (afterBoundary s).transmitters
    timing := (afterBoundary s).timing, selector := (afterBoundary s).selector, activeMap := (afterBoundary s).activeMap
    commitQueue := (afterBoundary s).commitQueue, txQueues := (afterBoundary s).txQueues
    ports := (afterBoundary s).ports, events := (afterBoundary s).events, raised := (afterBoundary s).raised
    txNotices := (afterBoundary s).txNotices } := by
  have hBegun : frameBegun s = { s with
      now := (frameBegun s).now, timing := (frameBegun s).timing, ports := (frameBegun s).ports
      events := (frameBegun s).events, raised := (frameBegun s).raised } := by
    rw [frameBegun, State.beginFrame_frame, State.drainRaised_frame]
  have hTested : phaseTested s = { frameBegun s with
      selector := (phaseTested s).selector, raised := (phaseTested s).raised } :=
    State.selectorBoundary_frame _
  have hTaken : (storesRead s).take = { storesRead s with
      activeMap := (storesRead s).take.activeMap, commitQueue := (storesRead s).take.commitQueue
      raised := (storesRead s).take.raised } := State.take_frame _
  rw [afterBoundary, hTaken, storesRead, hTested, hBegun]
  rfl

end fields

/-! ### The frame (R34, R37) -/

/-- Settles O4: field by field, from what each stage makes of the fields it changes. -/
theorem boundaryBeginsTheNextFrame : Obligations.BoundaryBeginsTheNextFrame := by
  intro s
  refine ⟨afterBoundary s, exec_boundary s, ?counter, ?begun, afterBoundary_now s, ?enable, ?pin, afterBoundary_events s,
    afterBoundary_ports s, fun p => ?port, ?rest⟩
  case port =>
    rw [afterBoundary_ports, State.drainRaised_port]
    exact ⟨rfl, rfl, rfl, rfl⟩
  case rest => rw [afterBoundary_frame]
  all_goals rw [afterBoundary_timing]

/-! ### The stores (R16, R18) -/

theorem mem_take_raised {u : State} {ev : RaisedEvent} (h : ev ∈ u.raised) : ev ∈ u.take.raised := by
  obtain ⟨l, hl⟩ := State.raised_take u
  rw [hl]
  exact List.mem_append_left _ h

theorem storesRead_raised (s : State) : (storesRead s).raised = (phaseTested s).raised
    ++ (List.finRange 16).filterMap fun n =>
      if (s.stores.get n).boundary.event then some ⟨.store n, s.everyone, .slip n .repeated⟩ else none := by
  simp [storesRead, State.readStores, phaseTested, frameBegun]

theorem mem_raised_of_slip {s : State} {n : Link} (h : (s.stores.get n).boundary.event = true) :
    (⟨.store n, s.everyone, .slip n .repeated⟩ : RaisedEvent) ∈ (afterBoundary s).raised := by
  rw [afterBoundary_raised]
  refine mem_take_raised ?_
  rw [storesRead_raised]
  exact List.mem_append_right _ (List.mem_filterMap.mpr ⟨n, List.mem_finRange n, by rw [if_pos h]⟩)

/-- An empty RUNNING store: the last read frame again, and SLIP when the window has run down (R16, R18). -/
theorem boundary_of_empty {e : Store} (hState : e.state = .running) (hFrames : e.frames = []) :
    e.boundary = Store.slip { e with
      slipWindow := e.slipWindow - 1, current := e.lastRead, repeatSlips := bump e.repeatSlips } := by
  simp only [Store.boundary, Store.read, Store.countdown, hState, hFrames]

/-- Settles O5: a store's part of the boundary in each of its states. -/
theorem boundaryReadsEveryElasticStore : Obligations.BoundaryReadsEveryElasticStore := by
  intro s n
  have hStore : (afterBoundary s).stores.get n = (s.stores.get n).boundary.store := by
    rw [afterBoundary_stores, Tab.get_map]
  refine ⟨afterBoundary s, exec_boundary s, fun hState => ?idle, fun hState hFrames => ?waiting,
    fun f g rest hState hFrames => ?centered, fun f rest hState hFrames => ?running,
    fun hState hFrames hWindow => ?silenced, fun hState hFrames hWindow => ?slipped⟩
  case idle => rw [hStore, Store.boundary, Store.read, Store.countdown, hState]
  case waiting =>
    rcases hList : (s.stores.get n).frames with _ | ⟨f, _ | ⟨g, rest⟩⟩
    case cons.cons => simp [hList] at hFrames
    all_goals simp only [hStore, Store.boundary, Store.read, Store.countdown, hState, hList]
  case centered => simp only [hStore, Store.boundary, Store.read, Store.countdown, hState, hFrames]
  case running => simp only [hStore, Store.boundary, Store.read, Store.countdown, hState, hFrames]
  case silenced =>
    have hOpen : (s.stores.get n).slipWindow - 1 ≠ 0 := by omega
    rw [hStore, boundary_of_empty hState hFrames, Store.slip, if_neg hOpen]
  case slipped =>
    have hDown : (s.stores.get n).slipWindow - 1 = 0 := by omega
    have hBoundary : (s.stores.get n).boundary = _ := boundary_of_empty hState hFrames
    rw [Store.slip, if_pos hDown] at hBoundary
    exact ⟨by rw [hStore, hBoundary]; rfl, mem_raised_of_slip (by rw [hBoundary])⟩

/-! ### The transmitters (R28 to R30) -/

/-- What a transmitter that is not OFF makes of the boundary. -/
theorem afterBoundary_transmitter {s : State} {n : Link} (hOn : (s.transmitters.get n).state ≠ .off) :
    let r := (s.transmitters.get n).step (s.txQueues.get n)
    (∃ grade samples, ((afterBoundary s).transmitters.get n).line = some (buildFrame grade r.field samples))
      ∧ ((afterBoundary s).transmitters.get n).sending = r.sending ∧ (afterBoundary s).txQueues.get n = r.queue
      ∧ (afterBoundary s).txNotices.get n
        = s.txNotices.get n ++ (s.transmitters.get n).sending.completionNotices := by
  have hSends : (s.transmitters.get n).sends = true := by simp [Transmitter.sends, hOn]
  have hTransmitters : (storesRead s).take.computeMap.transmitters = s.transmitters := by
    simp [storesRead, phaseTested, frameBegun]
  have hQueues : (storesRead s).take.computeMap.txQueues = s.txQueues := by simp [storesRead, phaseTested, frameBegun]
  have hNotices : (storesRead s).take.computeMap.txNotices = s.txNotices := by
    simp [storesRead, phaseTested, frameBegun]
  simp only [afterBoundary, State.transmit, Tab.get_tabulate, hTransmitters, hQueues, hNotices, if_pos hSends,
    and_true]
  exact ⟨_, _, rfl⟩

theorem sent_buildFrame (grade : Grade) (c : SideField) (x : Samples) :
    (LinkFrame.sideCode (buildFrame grade c x), LinkFrame.sideA (buildFrame grade c x),
      LinkFrame.sideB (buildFrame grade c x)) = (c.code, c.a, c.b) := by
  rw [sideCode_buildFrame, (sideBytes_buildFrame grade c x).1, (sideBytes_buildFrame grade c x).2]

/-- The next part of a message, by how many of its bytes are left (R29). -/
theorem nextField_spec (m : InFlight) :
    (m.nextByte + 3 ≤ m.wire.length → m.nextField
      = (⟨2, m.wire.getD m.nextByte 0, m.wire.getD (m.nextByte + 1) 0⟩, { m with nextByte := m.nextByte + 2 }))
    ∧ (m.nextByte + 2 = m.wire.length → m.nextField
      = (⟨4, m.wire.getD m.nextByte 0, m.wire.getD (m.nextByte + 1) 0⟩,
          { m with nextByte := m.nextByte + 2, lastPlaced := true }))
    ∧ (m.nextByte + 1 = m.wire.length → m.nextField
      = (⟨3, m.wire.getD m.nextByte 0, 0⟩, { m with nextByte := m.nextByte + 1, lastPlaced := true })) := by
  refine ⟨fun h => ?_, fun h => ?_, fun h => ?_⟩
  · rw [InFlight.nextField, if_pos (by omega)]
  · rw [InFlight.nextField, if_neg (by omega), if_pos (by omega)]
  · rw [InFlight.nextField, if_neg (by omega), if_neg (by omega)]

/-- Settles O10: the choice of the side field in each sending state, once a completion that falls due has been made. -/
theorem boundaryChoosesTheSideField : Obligations.BoundaryChoosesTheSideField := by
  intro s n hOn
  obtain ⟨⟨grade, samples, hLine⟩, hSending, hQueue, hNotices⟩ := afterBoundary_transmitter hOn
  refine ⟨afterBoundary s, _, exec_boundary s, hLine, fun done hDone => ?free, fun m hSendingS hLast => ?goesOn,
    fun hAborting => ?aborting⟩
  all_goals rw [sent_buildFrame, hSending, hQueue, hNotices, Transmitter.step]
  case free =>
    have hFree : (s.transmitters.get n).sending.afterCompletion = .idle
        ∧ (s.transmitters.get n).sending.completionNotices = done := by
      rcases hDone with ⟨hIdle, rfl⟩ | ⟨m, hSendingS, hLast, rfl⟩
      · rw [hIdle]
        exact ⟨rfl, rfl⟩
      · simp [Sending.afterCompletion, Sending.completionNotices, Sending.completed, hSendingS, hLast]
    rw [hFree.1, hFree.2]
    refine ⟨rfl, fun hEmpty => ?_, fun m rest hHead => ?_⟩
    · rw [hEmpty]
      exact ⟨rfl, rfl, rfl⟩
    · rw [hHead]
      exact ⟨rfl, rfl, rfl⟩
  case goesOn =>
    obtain ⟨hCont, hEnd2, hEnd1⟩ := nextField_spec m
    have hContinues : chooseField (s.transmitters.get n).sending.afterCompletion (s.txQueues.get n)
        = ⟨.sending m.nextField.2, s.txQueues.get n, m.nextField.1⟩ := by
      simp [Sending.afterCompletion, Sending.completed, hSendingS, hLast, chooseField]
    have hNone : (s.transmitters.get n).sending.completionNotices = [] := by
      simp [Sending.completionNotices, Sending.completed, hSendingS, hLast]
    rw [hContinues, hNone]
    refine ⟨rfl, List.append_nil _, fun h => ?_, fun h => ?_, fun h => ?_⟩
    · rw [hCont h]
      exact ⟨rfl, rfl⟩
    · rw [hEnd2 h]
      exact ⟨rfl, rfl⟩
    · rw [hEnd1 h]
      exact ⟨rfl, rfl⟩
  case aborting =>
    rw [hAborting]
    exact ⟨rfl, rfl, rfl, List.append_nil _⟩

end Sys2Proof.Machine
end

section
/-! The selector and the frame length at a boundary (R35, R36, R48, R49): the phase error is that of the state before, and
each of the selector's branches leaves the selector and the events that the rules give. -/

namespace Sys2Proof.Machine

/-! ### The phase error seen from the state before (R35) -/

/-- The reference events of a row are those of its source. -/
theorem refClock_congr {s t : State} {r : RowIx} (hSource : (t.row r).source = (s.row r).source)
    (hReceivers : t.receivers = s.receivers) (hClock : t.selector.monitor.clock = s.selector.monitor.clock) :
    t.refClock r = s.refClock r := by
  simp only [State.refClock, hSource, hReceivers, hClock]

theorem refClock_frameBegun (s : State) (r : RowIx) : (frameBegun s).refClock r = s.refClock r :=
  refClock_congr (by simp [State.row]) (by simp) (by simp)

theorem refLength_frameBegun (s : State) (r : RowIx) : (frameBegun s).refLength r = s.refLength r := by
  rw [State.refLength, refClock_frameBegun, State.refLength]

theorem phaseError_frameBegun (s : State) (r : RowIx) : (frameBegun s).phaseError r = phaseAt s r := by
  rcases hLast : (s.refClock r).last with _ | t <;>
    simp only [State.phaseError, phaseAt, refClock_frameBegun, refLength_frameBegun, State.frame, frameBegun_timing,
      hLast]

theorem withinPart_iff (k : Nat) (length : Time) (e : Int) : withinPart k length e = true ↔ within k length e := by
  rw [withinPart, decide_eq_true_iff]

/-! ### The selector's branches (R48, R49) -/

/-- The selector with the error of this boundary recorded (R60). -/
abbrev recorded (s : State) (r : RowIx) : Selector :=
  { s.selector with phase := phaseReport (s.refLength r) (phaseAt s r) }

theorem recordPhase_frameBegun (s : State) (r : RowIx) :
    (frameBegun s).recordPhase r = { frameBegun s with selector := recorded s r } := by
  rw [State.recordPhase, phaseError_frameBegun, refLength_frameBegun, State.onSelector, frameBegun_selector]

section branches

variable {s : State} {r : RowIx}

theorem phaseTested_of_noRow (h : s.selector.state = .freeRun ∨ s.selector.state = .holdover) :
    phaseTested s = frameBegun s := by
  rcases h with h | h <;> simp only [phaseTested, State.selectorBoundary, frameBegun_selector, h]

theorem phaseTested_of_locked (h : s.selector.state = .locked r) : phaseTested s
    = if within 4 (s.refLength r) (phaseAt s r) then { frameBegun s with selector := recorded s r }
      else State.enterLocking r .phaseLoss { frameBegun s with selector := recorded s r } := by
  simp only [phaseTested, State.selectorBoundary, frameBegun_selector, h, State.testLock, recordPhase_frameBegun,
    refLength_frameBegun, phaseError_frameBegun, withinPart_iff]

/-- The selector after a boundary in LOCKING has been counted. -/
abbrev counted (s : State) (r : RowIx) : Selector :=
  { recorded s r with captureCount := s.selector.captureCount + 1 }

theorem phaseTested_of_locking (h : s.selector.state = .locking r) : phaseTested s
    = if within 8 (s.refLength r) (phaseAt s r) then State.enterLocked r { frameBegun s with selector := counted s r }
      else if s.selector.captureCount + 1 < 200 then { frameBegun s with selector := counted s r }
      else State.captureFailure r { frameBegun s with selector := counted s r } := by
  simp only [phaseTested, State.selectorBoundary, frameBegun_selector, h, State.testCapture, recordPhase_frameBegun,
    refLength_frameBegun, phaseError_frameBegun, withinPart_iff]
  rfl

end branches

/-! ### A recomputation looks at the selector, the sessions and the receivers alone (R46) -/

theorem standing_of_eq {s t : State} (hSelector : t.selector = s.selector) (hSessions : t.sessions = s.sessions) :
    t.standing = s.standing :=
  standing_congr (by rw [hSelector]) hSessions

theorem withdrawUnqualified_selector_congr {s t : State} (hSelector : t.selector = s.selector)
    (hSessions : t.sessions = s.sessions) : t.withdrawUnqualified.selector = s.withdrawUnqualified.selector := by
  have hDropped : (t.dropRequest .notQualified).selector = (s.dropRequest .notQualified).selector := by
    simp only [State.dropRequest, hSelector]
    split
    · exact hSelector
    · simp [hSelector]
  have hRow : t.row = s.row := by
    funext r
    rw [State.row, hSelector, State.row]
  simp only [State.withdrawUnqualified, standing_of_eq hSelector hSessions, hRow]
  cases s.standing with
  | none => exact hSelector
  | some q => simp only [apply_ite State.selector, hDropped, hSelector]

theorem target_congr {s t : State} (hSelector : t.selector = s.selector) (hSessions : t.sessions = s.sessions)
    (hReceivers : t.receivers = s.receivers) : t.target = s.target := by
  have hPresent (r : RowIx) : t.rowPresent r = s.rowPresent r :=
    rowPresent_congr (by rw [hSelector]) (by rw [hSelector]) (linkPresent_congr hReceivers) r
  have hEligible : t.eligible = s.eligible := by
    funext r
    simp only [State.eligible, State.row, hSelector]
  simp only [State.target, standing_of_eq hSelector hSessions, hPresent, State.ownTarget, State.bestRow, hEligible,
    hSelector]

theorem withdrawUnqualified_lastRow (s : State) : s.withdrawUnqualified.selector.lastRow = s.selector.lastRow := by
  unfold State.withdrawUnqualified State.dropRequest
  repeat' split
  all_goals rfl

/-- What a withdrawal raises is no REF_STATE. -/
theorem raised_withdrawUnqualified_kind (s : State) : ∃ l, s.withdrawUnqualified.raised = s.raised ++ l
    ∧ ∀ ev ∈ l, ev.source = .selector ∧ ∀ st k why, ev.data ≠ .refState st k why := by
  have hNone : ∃ l, s.raised = s.raised ++ l
      ∧ ∀ ev ∈ l, ev.source = .selector ∧ ∀ st k why, ev.data ≠ .refState st k why := ⟨[], by simp, by simp⟩
  unfold State.withdrawUnqualified State.dropRequest
  split
  · split
    · split
      · exact hNone
      · exact ⟨_, rfl, by simp⟩
    · exact hNone
  · exact hNone

/-! Two states that agree on what a recomputation looks at find the same target. -/

section agree

variable {v u : State} (hSelector : v.selector = u.selector) (hSessions : v.sessions = u.sessions)
  (hReceivers : v.receivers = u.receivers)
include hSelector hSessions hReceivers

theorem target_withdrawUnqualified_congr : v.withdrawUnqualified.target = u.withdrawUnqualified.target :=
  target_congr (withdrawUnqualified_selector_congr hSelector hSessions) (by simp [hSessions]) (by simp [hReceivers])

theorem recomputeFailed_of_some {k : RowIx} (hTarget : u.withdrawUnqualified.target = some k) :
    v.recomputeFailed = v.withdrawUnqualified.enterLocking k .captureFail := by
  rw [← target_withdrawUnqualified_congr hSelector hSessions hReceivers] at hTarget
  simp only [State.recomputeFailed, hTarget]

theorem recomputeFailed_of_none (hTarget : u.withdrawUnqualified.target = none) :
    v.recomputeFailed = v.withdrawUnqualified.enterHoldover .captureFail := by
  rw [← target_withdrawUnqualified_congr hSelector hSessions hReceivers] at hTarget
  simp only [State.recomputeFailed, hTarget]

end agree

/-- A recomputation after a capture failure raises what a withdrawal raises, then one REF_STATE (R48, R52). -/
theorem raised_recomputeFailed (v : State) : ∃ dropped st k,
    v.recomputeFailed.raised = v.raised ++ dropped ++ [⟨.selector, v.everyone, .refState st k .captureFail⟩]
      ∧ ∀ ev ∈ dropped, ev.source = .selector ∧ ∀ st k why, ev.data ≠ .refState st k why := by
  obtain ⟨dropped, hDropped, hKind⟩ := raised_withdrawUnqualified_kind v
  rw [State.recomputeFailed, ← State.withdrawUnqualified_everyone]
  split
  · exact ⟨dropped, .holdover, v.withdrawUnqualified.selector.lastRow, by rw [← hDropped]; rfl, hKind⟩
  · next k _ => exact ⟨dropped, .locking k, some k, by rw [← hDropped]; rfl, hKind⟩

/-- Every REF_STATE of a recomputation after a capture failure says so. -/
theorem refState_recomputeFailed {v : State} (hRaised : v.raised = []) {ev : RaisedEvent}
    (hev : ev ∈ v.recomputeFailed.raised) {st : SelectorState} {k : Option RowIx} {why : RefReason}
    (hData : ev.data = .refState st k why) : why = .captureFail := by
  obtain ⟨dropped, st', k', hAll, hKind⟩ := raised_recomputeFailed v
  rw [hAll, hRaised, List.nil_append, List.mem_append, List.mem_singleton] at hev
  rcases hev with hDrop | rfl
  · exact absurd hData ((hKind ev hDrop).2 st k why)
  · cases hData
    rfl

/-! ### What a boundary raises, by its source -/

/-- The raised events of a boundary: those of the phase test, then those of the stores and of the take. -/
theorem raised_afterBoundary (s : State) : ∃ l, (afterBoundary s).raised = (phaseTested s).raised ++ l
    ∧ ∀ ev ∈ l, ev.source ≠ .selector ∧ ∀ st k why, ev.data ≠ .refState st k why := by
  have hTake (u : State) : ∃ l, u.take.raised = u.raised ++ l
      ∧ ∀ ev ∈ l, ev.source ≠ .selector ∧ ∀ st k why, ev.data ≠ .refState st k why := by
    have hNone (v : State) : ∃ l, v.raised = v.raised ++ l
        ∧ ∀ ev ∈ l, ev.source ≠ .selector ∧ ∀ st k why, ev.data ≠ .refState st k why := ⟨[], by simp, by simp⟩
    rcases hQueue : u.commitQueue with _ | ⟨x, rest⟩
    · rw [take_of_empty hQueue]
      exact hNone u
    · by_cases hAhead : after x.due u.frame = true
      · rw [take_of_ahead hQueue hAhead]
        exact hNone u
      · rcases hFails : firstFailing { u with commitQueue := rest } x.id.port x.session x.records with _ | r
        · rw [take_of_owned hQueue hAhead hFails]
          exact ⟨_, rfl, by simp⟩
        · rw [take_of_failing hQueue hAhead hFails, State.rejectSet]
          split
          · exact ⟨_, rfl, by simp⟩
          · exact hNone u
  obtain ⟨l, hl, hSource⟩ := hTake (storesRead s)
  refine ⟨_, by rw [afterBoundary_raised, hl, storesRead_raised, List.append_assoc], fun ev hev => ?_⟩
  rcases List.mem_append.mp hev with hSlip | hTaken
  · obtain ⟨n, -, hn⟩ := List.mem_filterMap.mp hSlip
    split at hn
    · cases hn
      simp
    · contradiction
  · exact hSource ev hTaken

theorem mem_afterBoundary {s : State} {ev : RaisedEvent} (h : ev ∈ (phaseTested s).raised) :
    ev ∈ (afterBoundary s).raised := by
  obtain ⟨l, hl, -⟩ := raised_afterBoundary s
  rw [hl]
  exact List.mem_append_left _ h

/-! ### The phase test (O6) -/

/-- The selector's state after the 200th boundary without capture, up to the recomputation (R48). -/
abbrev failedRow (s : State) (r : RowIx) (now : Time) : CandidateRow :=
  { s.selector.table.get r with
    qualification := if s.selector.restoreWait = 0 then .qualified else .waiting
    restoreTimer := if s.selector.restoreWait = 0 then none
      else some (now + s.selector.restoreWait * Config.second) }

abbrev failedSelector (s : State) (r : RowIx) (now : Time) : Selector :=
  { counted s r with table := s.selector.table.put r (failedRow s r now) }

theorem load_eq (w : CandidateRow) (wait : Nat) (now : Time) : w.load wait now = { w with
    qualification := if wait = 0 then .qualified else .waiting
    restoreTimer := if wait = 0 then none else some (now + wait * Config.second) } := by
  unfold CandidateRow.load
  split <;> rfl

theorem captureFailure_counted (s : State) (r : RowIx) :
    State.captureFailure r { frameBegun s with selector := counted s r }
      = State.recomputeFailed { frameBegun s with selector := failedSelector s r (frameBegun s).now } := by
  rw [State.captureFailure]
  simp only [State.onRow, State.onSelector, load_eq, Tab.modify]

/-- Settles O6: the phase test by the selector's state, whose selector the later stages keep and whose events they only
add to. -/
theorem boundaryTestsThePhase : Obligations.BoundaryTestsThePhase := by
  intro s
  obtain ⟨later, hRaised, hLater⟩ := raised_afterBoundary s
  have hEveryone (l : Selector) : State.everyone { frameBegun s with selector := l } = s.everyone := frameBegun_everyone s
  refine ⟨afterBoundary s, exec_boundary s, fun hNoRow => ?noRow, fun r => ⟨fun hLocked hIn => ?kept,
    fun hLocked hOut => ?lost, fun hLocking hIn => ?captured, fun hLocking hOut hCount => ?counting,
    fun hLocking hOut hCount => ?failed⟩⟩
  case noRow =>
    rw [afterBoundary_selector, hRaised, phaseTested_of_noRow hNoRow, frameBegun_raised, List.nil_append]
    exact ⟨frameBegun_selector s, fun ev hev => (hLater ev hev).1⟩
  case kept => rw [afterBoundary_selector, phaseTested_of_locked hLocked, if_pos hIn]
  case lost =>
    have hTested := phaseTested_of_locked hLocked
    rw [if_neg hOut] at hTested
    refine ⟨by rw [afterBoundary_selector, hTested]; rfl, mem_afterBoundary ?_⟩
    rw [hTested, ← hEveryone (recorded s r)]
    exact List.mem_append_right _ (List.mem_singleton.mpr rfl)
  case captured =>
    have hTested := phaseTested_of_locking hLocking
    rw [if_pos hIn] at hTested
    refine ⟨by rw [afterBoundary_selector, hTested]; rfl, mem_afterBoundary ?_⟩
    rw [hTested, ← hEveryone (counted s r)]
    exact List.mem_append_right _ (List.mem_singleton.mpr rfl)
  case counting => rw [afterBoundary_selector, phaseTested_of_locking hLocking, if_neg hOut, if_pos hCount]
  case failed =>
    have hTested := phaseTested_of_locking hLocking
    rw [if_neg hOut, if_neg (by omega), captureFailure_counted] at hTested
    have hNow : (afterBoundary s).now = (frameBegun s).now := by rw [afterBoundary_now, frameBegun_now]
    rw [hNow]
    intro wait row u
    let v : State := { frameBegun s with selector := failedSelector s r (frameBegun s).now }
    let x : State := { s with selector := failedSelector s r (frameBegun s).now }
    have hTested : phaseTested s = v.recomputeFailed := hTested
    have hSelector : v.withdrawUnqualified.selector = u.selector :=
      withdrawUnqualified_selector_congr (s := x) rfl (frameBegun_sessions s)
    have hAudience : v.withdrawUnqualified.everyone = s.everyone :=
      (State.withdrawUnqualified_everyone v).trans (hEveryone _)
    rw [afterBoundary_selector]
    refine ⟨fun k hk => ?_, fun hk => ?_, fun ev hev st k why hData => ?_⟩
    · have hLocking : phaseTested s = v.withdrawUnqualified.enterLocking k .captureFail :=
        hTested.trans (recomputeFailed_of_some (v := v) (u := x) rfl (frameBegun_sessions s) (frameBegun_receivers s) hk)
      refine ⟨by rw [hLocking, ← hSelector]; rfl, mem_afterBoundary ?_⟩
      rw [hLocking, ← hAudience]
      exact List.mem_append_right _ (List.mem_singleton.mpr rfl)
    · have hHoldover : phaseTested s = v.withdrawUnqualified.enterHoldover .captureFail :=
        hTested.trans (recomputeFailed_of_none (v := v) (u := x) rfl (frameBegun_sessions s) (frameBegun_receivers s) hk)
      have hLimit : v.withdrawUnqualified.selector.holdoverLimit = s.selector.holdoverLimit := by simp [v]
      have hNowV : v.withdrawUnqualified.now = (frameBegun s).now := by simp [v]
      have hLastRow : v.withdrawUnqualified.selector.lastRow = s.selector.lastRow := withdrawUnqualified_lastRow v
      refine ⟨?_, mem_afterBoundary ?_⟩
      · rw [hHoldover, ← hSelector, ← hLimit, ← hNowV]
        rfl
      · rw [hHoldover, ← hAudience, ← hLastRow]
        exact List.mem_append_right _ (List.mem_singleton.mpr rfl)
    · rw [hRaised, List.mem_append] at hev
      rcases hev with hEntered | hLaterEv
      · rw [hTested] at hEntered
        exact refState_recomputeFailed (v := v) (frameBegun_raised s) hEntered hData
      · exact absurd hData ((hLater ev hLaterEv).2 st k why)

end Sys2Proof.Machine
end

section
/-! The length of the frame begun (R35, R36): the limited interval of the row's source, corrected by at most 1/256 frame
against the phase error, and the held period. -/

namespace Sys2Proof.Machine

/-! ### The limits (R35) -/

theorem clamp_eq_max_min (t : Nat) :
    (if t < 815104 then 815104 else if 823296 < t then 823296 else t) = max 815104 (min 823296 t) := by
  rw [min_def, max_def]
  split_ifs <;> omega

theorem limitedInterval_eq (measured : Option Time) :
    limitedInterval measured = max 815104 (min 823296 (measured.getD 819200)) := by
  cases measured with
  | none => decide
  | some t => exact clamp_eq_max_min t

theorem refLength_pos (s : State) (r : RowIx) : 0 < s.refLength r := by
  rw [State.refLength, limitedInterval_eq]
  exact lt_max_of_lt_left (by decide)

/-- A frame corrected against an error within 1/256 frame. -/
theorem corrected_of_within {length : Time} {e : Int} (h : within 256 length e) :
    ((((length : Int) + phaseCorrection length e).toNat : Nat) : Int) = (length : Int) - e := by
  rw [phaseCorrection, if_pos ((withinPart_iff _ _ _).mpr h)]
  omega

/-- A frame shortened by 1/256: its beginning lay behind the reference. -/
theorem corrected_of_late {length : Time} {e : Int} (h : ¬ within 256 length e) (hLate : 0 < e) :
    ((length : Int) + phaseCorrection length e).toNat = length - length / 256 := by
  rw [phaseCorrection, if_neg (mt (withinPart_iff _ _ _).mp h), if_pos hLate]
  omega

/-- A frame lengthened by 1/256: its beginning lay ahead of the reference. -/
theorem corrected_of_early {length : Time} {e : Int} (h : ¬ within 256 length e) (hEarly : e < 0) :
    ((length : Int) + phaseCorrection length e).toNat = length + length / 256 := by
  rw [phaseCorrection, if_neg (mt (withinPart_iff _ _ _).mp h), if_neg (by omega)]
  omega

/-! ### The reduced error (R35) -/

/-- The reduction lands within half a frame. -/
theorem reducePhase_bounds {length : Int} (hPos : 0 < length) (d : Int) :
    -length ≤ 2 * reducePhase length d ∧ 2 * reducePhase length d ≤ length := by
  have hLow := Int.emod_nonneg d (Int.ne_of_gt hPos)
  have hHigh := Int.emod_lt_of_pos d hPos
  unfold reducePhase
  split <;> omega

/-- The reduction is by whole frames. -/
theorem reducePhase_frames (length d : Int) : ∃ k : Int, reducePhase length d = d + k * length := by
  unfold reducePhase
  split
  · exact ⟨-(d / length) - 1, by rw [Int.emod_def]; ring⟩
  · exact ⟨-(d / length), by rw [Int.emod_def]; ring⟩

/-! ### What the phase test leaves of the row's reference -/

theorem source_selectorBoundary (u : State) (r : RowIx) : (u.selectorBoundary.row r).source = (u.row r).source := by
  have hFailed (k : RowIx) (v : State) : ((v.captureFailure k).row r).source = (v.row r).source := by
    simp only [State.captureFailure, State.row, State.recomputeFailed_sel_table, State.onRow, State.onSelector,
      Tab.get_modify, load_eq]
    split
    · next hk => rw [hk]
    · rfl
  unfold State.selectorBoundary
  split
  · unfold State.testCapture
    simp only
    repeat' split
    · rfl
    · rfl
    · exact hFailed _ _
  · unfold State.testLock
    simp only
    split <;> rfl
  · rfl
  · rfl

theorem monitor_selectorBoundary (u : State) : u.selectorBoundary.selector.monitor = u.selector.monitor := by
  unfold State.selectorBoundary
  split
  · unfold State.testCapture State.captureFailure
    simp only
    repeat' split
    · rfl
    · rfl
    · rw [State.recomputeFailed_sel_monitor]
      rfl
  · unfold State.testLock
    simp only
    split <;> rfl
  · rfl
  · rfl

theorem refClock_phaseTested (s : State) (r : RowIx) : (phaseTested s).refClock r = s.refClock r := by
  refine (refClock_congr (source_selectorBoundary (frameBegun s) r) (by simp) ?_).trans (refClock_frameBegun s r)
  rw [monitor_selectorBoundary]

theorem refLength_phaseTested (s : State) (r : RowIx) : (phaseTested s).refLength r = s.refLength r := by
  rw [State.refLength, refClock_phaseTested, State.refLength]

theorem phaseError_phaseTested (s : State) (r : RowIx) : (phaseTested s).phaseError r = phaseAt s r := by
  rw [← phaseError_frameBegun]
  simp only [State.phaseError, refClock_phaseTested, refLength_phaseTested, refClock_frameBegun, refLength_frameBegun,
    State.frame, phaseTested_timing]

theorem lengthOfFrame_of_row {s : State} {r : RowIx}
    (h : (phaseTested s).selector.state = .locking r ∨ (phaseTested s).selector.state = .locked r) :
    (phaseTested s).lengthOfFrame = ((s.refLength r : Int) + phaseCorrection (s.refLength r) (phaseAt s r)).toNat := by
  rcases h with h | h <;>
    simp only [State.lengthOfFrame, h, refLength_phaseTested, phaseError_phaseTested]

theorem heldAfter_of_row {s : State} {r : RowIx}
    (h : (phaseTested s).selector.state = .locking r ∨ (phaseTested s).selector.state = .locked r) :
    (phaseTested s).heldAfter = if (phaseTested s).selector.state = .locked r ∧ within 8 (s.refLength r) (phaseAt s r)
      then s.refLength r else s.timing.heldPeriod := by
  rcases h with h | h <;>
    simp [State.heldAfter, h, refLength_phaseTested, phaseError_phaseTested, withinPart_iff, frameBegun_timing]

/-- Settles O7: the length and the held period by the state the phase test leaves, whose row has the reference it had. -/
theorem boundaryFixesTheFrameLength : Obligations.BoundaryFixesTheFrameLength := by
  refine ⟨fun s => ⟨afterBoundary s, exec_boundary s, fun hState => ?freeRun, fun hState => ?holdover,
    fun r hState => ?row⟩, fun s r e hLast => ?error⟩
  case freeRun =>
    rw [afterBoundary_selector] at hState
    simp [afterBoundary_timing, State.lengthOfFrame, State.heldAfter, hState, frameBegun_timing, Config.nominalPeriod]
  case holdover =>
    rw [afterBoundary_selector] at hState
    simp [afterBoundary_timing, State.lengthOfFrame, State.heldAfter, hState, frameBegun_timing]
  case row =>
    rw [afterBoundary_selector] at hState ⊢
    rw [afterBoundary_timing, lengthOfFrame_of_row hState, heldAfter_of_row hState]
    exact ⟨limitedInterval_eq _, corrected_of_within, corrected_of_late, corrected_of_early, rfl⟩
  case error =>
    have hPhase : phaseAt s r
        = reducePhase (s.refLength r) (((s.timing.begun + s.timing.frameLength : Nat) : Int) - (e : Int)) := by
      simp only [phaseAt, hLast]
    rw [hPhase]
    obtain ⟨hLow, hHigh⟩ := reducePhase_bounds (Int.natCast_pos.mpr (refLength_pos s r))
      (((s.timing.begun + s.timing.frameLength : Nat) : Int) - (e : Int))
    exact ⟨hLow, hHigh, reducePhase_frames _ _⟩

end Sys2Proof.Machine
end

section
/-! The take and the map at a boundary (R64 to R75, R119 to R123): the head set applied whole or rejected whole, and the
sample of every destination from the entry it then has. -/

namespace Sys2Proof.Machine

/-! ### A computed entry (R64 to R68) -/

theorem sampleOf_eq (u : State) (x : Source) : sampleOf u.stores x = (sourceSample u x).toInt := by
  cases x with
  | silent => rfl
  | slot n i =>
    rcases hCurrent : (u.stores.get n).current with _ | f
    · simp only [sampleOf, sourceSample, hCurrent, show (0 : Sample).toInt = 0 from rfl]
    · simp only [sampleOf, sourceSample, hCurrent]

theorem valueOf_eq (u : State) (e : MapEntry) : valueOf u.stores e = entryValue u e := by
  rcases hFade : e.fade with _ | f
  · simp only [valueOf, entryValue, hFade, sampleOf_eq]
  · simp only [valueOf, entryValue, hFade, sampleOf_eq, fadeMix]

/-- An entry once its sample is computed and its fade has advanced. -/
def MapEntry.computed (u : State) (e : MapEntry) : MapEntry :=
  ({ e with current := destinationSample u e } : MapEntry).advance

theorem computeMap_entry (u : State) (d : Dest) : u.computeMap.activeMap.get d = (u.activeMap.get d).computed u := by
  rw [State.computeMap, Tab.get_map, MapEntry.computed]

section computed

variable (u : State) (e : MapEntry)

theorem advance_settings : e.advance.source = e.source ∧ e.advance.mute = e.mute ∧ e.advance.invert = e.invert
    ∧ e.advance.current = e.current := by
  unfold MapEntry.advance
  repeat' split
  all_goals exact ⟨rfl, rfl, rfl, rfl⟩

theorem computed_settings : (e.computed u).source = e.source ∧ (e.computed u).mute = e.mute
    ∧ (e.computed u).invert = e.invert := by
  obtain ⟨hSource, hMute, hInvert, -⟩ := advance_settings { e with current := destinationSample u e }
  exact ⟨hSource, hMute, hInvert⟩

theorem computed_current : (e.computed u).current = destinationSample u e :=
  (advance_settings { e with current := destinationSample u e }).2.2.2

theorem computed_fade_none (h : e.fade = none) : (e.computed u).fade = none := by
  simp only [MapEntry.computed, MapEntry.advance, h]

theorem computed_fade_some {f : Fade} (h : e.fade = some f) : (e.computed u).fade
    = if f.elapsed + 1 < f.length then some { f with elapsed := f.elapsed + 1 } else none := by
  simp only [MapEntry.computed, MapEntry.advance, h]
  split <;> rfl

theorem sample_of_mute (hMute : e.mute = true) : destinationSample u e = 0 := by
  rw [destinationSample, if_pos hMute]

theorem sample_of_plain (hMute : e.mute = false) (hInvert : e.invert = false) :
    destinationSample u e = BitVec.ofInt 24 (valueOf u.stores e) := by
  rw [destinationSample, if_neg (by simp [hMute]), if_neg (by simp [hInvert]), valueOf_eq]

theorem sample_of_inverted (hMute : e.mute = false) (hInvert : e.invert = true)
    (hValue : valueOf u.stores e ≠ -8388608) : destinationSample u e = BitVec.ofInt 24 (-valueOf u.stores e) := by
  rw [valueOf_eq] at hValue ⊢
  rw [destinationSample, if_neg (by simp [hMute]), if_pos hInvert, negateSample, if_neg hValue]

theorem sample_of_lowest (hMute : e.mute = false) (hInvert : e.invert = true)
    (hValue : valueOf u.stores e = -8388608) : destinationSample u e = 0x7FFFFF#24 := by
  rw [valueOf_eq] at hValue
  rw [destinationSample, if_neg (by simp [hMute]), if_pos hInvert, negateSample, if_pos hValue]
  decide

end computed

/-! ### Records acting on the map (R69 to R75) -/

theorem recordActs_apply (r : ChangeRecord) (e : MapEntry) : recordActs r e (e.apply r) := by
  unfold recordActs MapEntry.apply MapEntry.applySource
  rcases r.source with _ | ⟨x, f⟩
  · simp
  · by_cases hSame : x = e.source
    · simp [hSame]
    · by_cases hCut : f = 0
      · simp [hSame, hCut]
      · simp [hSame, hCut]

theorem applyRecords_unnamed {rs : List ChangeRecord} {d : Dest} (h : ∀ r ∈ rs, r.dest ≠ d) (m : Tab 256 MapEntry) :
    (applyRecords rs m).get d = m.get d := by
  induction rs generalizing m with
  | nil => rfl
  | cons r rest ih =>
    obtain ⟨hHead, hRest⟩ := List.forall_mem_cons.mp h
    rw [applyRecords, List.foldl_cons]
    refine (ih hRest _).trans ?_
    rw [applyRecord, Tab.get_modify, if_neg (Ne.symm hHead)]

theorem applyRecords_named {pre post : List ChangeRecord} {r : ChangeRecord} (h : ∀ q ∈ pre ++ post, q.dest ≠ r.dest)
    (m : Tab 256 MapEntry) : (applyRecords (pre ++ r :: post) m).get r.dest = (m.get r.dest).apply r := by
  obtain ⟨hPre, hPost⟩ := List.forall_mem_append.mp h
  have hSplit : applyRecords (pre ++ r :: post) m = applyRecords post (applyRecord (applyRecords pre m) r) := by
    rw [applyRecords, List.foldl_append, List.foldl_cons]
    rfl
  rw [hSplit, applyRecords_unnamed hPost, applyRecord, Tab.get_modify, if_pos rfl, applyRecords_unnamed hPre]

/-! ### The take of the boundary, by the head set (R119 to R123) -/

section take

variable {s : State} {x : ChangeSet} {rest : List ChangeSet} (hQueue : s.commitQueue = x :: rest)

theorem firstFailing_eq_none_iff (u : State) (x : ChangeSet) :
    firstFailing u x.id.port x.session x.records = none ↔ ∀ r ∈ x.records, recordOwned u x r := by
  simp [firstFailing, List.find?_eq_none, State.owns]

theorem firstFailing_of_split {u : State} {x : ChangeSet} {pre post : List ChangeRecord} {r : ChangeRecord}
    (hSplit : x.records = pre ++ r :: post) (hPre : ∀ q ∈ pre, recordOwned u x q) (hFails : ¬ recordOwned u x r) :
    firstFailing u x.id.port x.session x.records = some r := by
  rw [hSplit]
  exact firstFailing_of_first u hPre hFails

theorem not_after_iff (s : State) (x : ChangeSet) : ¬ after x.due (storesRead s).frame = true ↔ headDue s x := by
  rw [storesRead_frame, Bool.not_eq_true]

theorem take_of_no_set (hEmpty : s.commitQueue = []) : (storesRead s).take = storesRead s :=
  take_of_empty ((storesRead_commitQueue s).trans hEmpty)

include hQueue

theorem take_of_not_due (hDue : ¬ headDue s x) : (storesRead s).take = storesRead s := by
  exact take_of_ahead ((storesRead_commitQueue s).trans hQueue) (not_not.mp (mt (not_after_iff s x).mp hDue))

theorem take_of_valid (hDue : headDue s x) (hOwned : ∀ r ∈ x.records, recordOwned s x r) :
    (storesRead s).take = State.applySet x { storesRead s with commitQueue := rest } := by
  refine take_of_owned ((storesRead_commitQueue s).trans hQueue) ((not_after_iff s x).mpr hDue)
    ((firstFailing_eq_none_iff _ x).mpr ?_)
  simpa using hOwned

theorem take_of_invalid (hDue : headDue s x) {pre post : List ChangeRecord} {r : ChangeRecord}
    (hSplit : x.records = pre ++ r :: post) (hPre : ∀ q ∈ pre, recordOwned s x q) (hFails : ¬ recordOwned s x r) :
    (storesRead s).take = State.rejectSet x r { storesRead s with commitQueue := rest } := by
  refine take_of_failing ((storesRead_commitQueue s).trans hQueue) ((not_after_iff s x).mpr hDue)
    (firstFailing_of_split hSplit ?_ ?_)
  · simpa using hPre
  · simpa using hFails

end take

theorem rejectSet_activeMap (x : ChangeSet) (r : ChangeRecord) (u : State) :
    (u.rejectSet x r).activeMap = u.activeMap := by
  unfold State.rejectSet
  split <;> rfl

theorem afterBoundary_commitQueue (s : State) : (afterBoundary s).commitQueue = (storesRead s).take.commitQueue := by
  simp [afterBoundary]

theorem afterBoundary_entry (s : State) (d : Dest) : (afterBoundary s).activeMap.get d
    = ((storesRead s).take.activeMap.get d).computed (storesRead s).take := by
  rw [← computeMap_entry]
  simp [afterBoundary]

theorem take_stores_afterBoundary (s : State) : (storesRead s).take.stores = (afterBoundary s).stores := by
  simp [afterBoundary]

/-- The phase test raises the selector's events alone. -/
theorem source_phaseTested {s : State} {ev : RaisedEvent} (h : ev ∈ (phaseTested s).raised) : ev.source = .selector := by
  have hEntered {st k why l} (h : ev ∈ (State.raiseRefState st k why { frameBegun s with selector := l }).raised) :
      ev.source = .selector := by
    rw [State.raiseRefState, State.raise, frameBegun_raised, List.nil_append, List.mem_singleton] at h
    rw [h]
  have hNone {l} (h : ev ∈ ({ frameBegun s with selector := l } : State).raised) : ev.source = .selector := by
    rw [frameBegun_raised] at h
    contradiction
  rcases hState : s.selector.state with _ | r | r | _
  · rw [phaseTested_of_noRow (.inl hState)] at h
    exact hNone h
  · rw [phaseTested_of_locking hState] at h
    split at h
    · exact hEntered h
    · split at h
      · exact hNone h
      · rw [captureFailure_counted] at h
        obtain ⟨dropped, st, k, hAll, hKind⟩ := raised_recomputeFailed
          { frameBegun s with selector := failedSelector s r (frameBegun s).now }
        rw [hAll, frameBegun_raised, List.nil_append, List.mem_append, List.mem_singleton] at h
        rcases h with hDrop | rfl
        · exact (hKind ev hDrop).1
        · rfl
  · rw [phaseTested_of_locked hState] at h
    split at h
    · exact hNone h
    · exact hEntered h
  · rw [phaseTested_of_noRow (.inr hState)] at h
    exact hNone h

/-- Before the take, a boundary raises nothing of the Change Manager's. -/
theorem source_storesRead {s : State} {ev : RaisedEvent} (h : ev ∈ (storesRead s).raised) :
    ev.source ≠ .changeManager := by
  rw [storesRead_raised, List.mem_append] at h
  rcases h with hTested | hSlip
  · rw [source_phaseTested hTested]
    simp
  · obtain ⟨n, -, hn⟩ := List.mem_filterMap.mp hSlip
    split at hn
    · cases hn
      simp
    · contradiction

/-! ### The statements -/

/-- The sample of a destination from its entry after the take. -/
theorem entry_after {s : State} {d : Dest} {e : MapEntry} (he : (storesRead s).take.activeMap.get d = e) :
    let e' := (afterBoundary s).activeMap.get d
    e'.source = e.source ∧ e'.mute = e.mute ∧ e'.invert = e.invert
      ∧ (e.mute = true → e'.current = 0)
      ∧ (e.mute = false → e.invert = false → e'.current = BitVec.ofInt 24 (valueOf (afterBoundary s).stores e))
      ∧ (e.mute = false → e.invert = true → valueOf (afterBoundary s).stores e ≠ -8388608 →
          e'.current = BitVec.ofInt 24 (-valueOf (afterBoundary s).stores e))
      ∧ (e.mute = false → e.invert = true → valueOf (afterBoundary s).stores e = -8388608 →
          e'.current = 0x7FFFFF#24)
      ∧ (e.fade = none → e'.fade = none)
      ∧ ∀ f, e.fade = some f →
          e'.fade = if f.elapsed + 1 < f.length then some { f with elapsed := f.elapsed + 1 } else none := by
  rw [afterBoundary_entry, he, ← take_stores_afterBoundary]
  simp only [computed_current]
  obtain ⟨hSource, hMute, hInvert⟩ := computed_settings (storesRead s).take e
  exact ⟨hSource, hMute, hInvert, sample_of_mute _ e, sample_of_plain _ e, sample_of_inverted _ e,
    sample_of_lowest _ e, computed_fade_none _ e, fun f => computed_fade_some _ e⟩

/-- Settles O8: the take by the head set; a set applied acts on the entry its boundary then computes. -/
theorem boundaryTakesAtMostTheHeadSet : Obligations.BoundaryTakesAtMostTheHeadSet := by
  refine ⟨fun s => ⟨afterBoundary s, exec_boundary s, fun hEmpty => ?empty, fun x rest hQueue =>
    ⟨fun hDue => ?notDue, fun hDue => ⟨?leaves, fun hOwned => ?taken, fun pre r post hSplit hPre hFails =>
      ⟨fun hOpen hNumber => ?rejected, fun hEnded => ?silent⟩⟩⟩⟩,
    fun s x rest pre post r hQueue hDue hOwned hSplit hOnce => ?acts⟩
  case empty => rw [afterBoundary_commitQueue, take_of_no_set hEmpty, storesRead_commitQueue, hEmpty]
  case notDue =>
    rw [afterBoundary_commitQueue, afterBoundary_raised, take_of_not_due hQueue hDue]
    exact ⟨storesRead_commitQueue s, fun ev => source_storesRead⟩
  case leaves =>
    rw [afterBoundary_commitQueue]
    exact take_commitQueue_of_due ((storesRead_commitQueue s).trans hQueue) ((not_after_iff s x).mpr hDue)
  case taken =>
    rw [afterBoundary_raised, take_of_valid hQueue hDue hOwned, ← storesRead_frame]
    exact ⟨_, rfl⟩
  case rejected =>
    have hOpenWith : (storesRead s).openWith x.id.port x.session = true :=
      (openWith_iff _ _ _).mpr (by simpa using ⟨hOpen, hNumber⟩)
    rw [afterBoundary_raised, take_of_invalid hQueue hDue hSplit hPre hFails, ← storesRead_frame]
    exact ⟨_, congrArg State.raised (if_pos hOpenWith)⟩
  case silent =>
    have hClosed : ¬ (storesRead s).openWith x.id.port x.session = true :=
      mt (openWith_iff _ _ _).mp (by simpa using hEnded)
    rw [afterBoundary_raised, take_of_invalid hQueue hDue hSplit hPre hFails]
    have hKept : State.rejectSet x r { storesRead s with commitQueue := rest }
        = { storesRead s with commitQueue := rest } := if_neg hClosed
    rw [hKept]
    exact fun ev => source_storesRead
  case acts =>
    have hEntry : (storesRead s).take.activeMap.get r.dest = (s.activeMap.get r.dest).apply r := by
      rw [take_of_valid hQueue hDue hOwned, ← storesRead_activeMap s, ← applyRecords_named hOnce, ← hSplit]
      rfl
    exact ⟨afterBoundary s, _, exec_boundary s, recordActs_apply r _, entry_after hEntry⟩

/-- The entry of a destination that no valid set names is that of the state before. -/
theorem take_entry_unnamed {s : State} {d : Dest} (h : ∀ x rest, s.commitQueue = x :: rest → headDue s x →
    (∀ r ∈ x.records, recordOwned s x r) → ∀ r ∈ x.records, r.dest ≠ d) :
    (storesRead s).take.activeMap.get d = s.activeMap.get d := by
  rcases hQueue : s.commitQueue with _ | ⟨x, rest⟩
  · rw [take_of_no_set hQueue, storesRead_activeMap]
  · by_cases hDue : headDue s x
    · by_cases hOwned : ∀ r ∈ x.records, recordOwned s x r
      · rw [take_of_valid hQueue hDue hOwned, ← storesRead_activeMap s]
        exact applyRecords_unnamed (h x rest hQueue hDue hOwned) _
      · rcases hFails : firstFailing { storesRead s with commitQueue := rest } x.id.port x.session x.records with _ | r
        · exact absurd (by simpa using (firstFailing_eq_none_iff _ x).mp hFails) hOwned
        · rw [take_of_failing ((storesRead_commitQueue s).trans hQueue) ((not_after_iff s x).mpr hDue) hFails,
            rejectSet_activeMap]
          exact congrArg (Tab.get · d) (storesRead_activeMap s)
    · rw [take_of_not_due hQueue hDue, storesRead_activeMap]

/-- Settles O9: the entry is as it was before the take. -/
theorem boundaryComputesEveryDestination : Obligations.BoundaryComputesEveryDestination := by
  intro s d hUnnamed
  obtain ⟨hSource, hMute, hInvert, hMuted, hPlain, hInverted, hLowest, hSteady, hFading⟩ :=
    entry_after (take_entry_unnamed hUnnamed)
  refine ⟨afterBoundary s, exec_boundary s, hSource, hMute, hInvert, hMuted, hPlain, hInverted, hLowest, hSteady,
    fun f hf => ⟨fun hOn => ?_, fun hEnd => ?_⟩⟩
  · rw [hFading f hf, if_pos hOn]
  · rw [hFading f hf, if_neg (by omega)]

end Sys2Proof.Machine
end

section
/-! The receive lines (R4 to R15): what a receiver, its store and its assembler make of line activity and of each class
of frame, and that other links stay as they were. -/

namespace Sys2Proof.Machine

/-! ### A receiver's operations, by what they leave -/

/-- The damage window moves as R10 and R11 give, and nothing else of the receiver does. -/
theorem window_eq (bad : Bool) (r : Receiver) : r.window bad = { r with
    windowFrames := (windowStep bad r.windowFrames r.windowDamage r.degraded).1
    windowDamage := (windowStep bad r.windowFrames r.windowDamage r.degraded).2.1
    degraded := (windowStep bad r.windowFrames r.windowDamage r.degraded).2.2 } := by
  have hDamage : (if bad then r.windowDamage + 1 else r.windowDamage) = r.windowDamage + if bad then 1 else 0 := by
    cases bad <;> rfl
  unfold Receiver.window windowStep
  simp only [hDamage, Config.degradedSet, Config.damageWindow, Config.degradedClear]
  generalize r.windowDamage + (if bad then 1 else 0) = damage
  split
  · rfl
  · by_cases hClear : damage < 2
    · simp [hClear]
    · simp [hClear, Nat.le_of_not_lt hClear]

theorem append_eq_storeTaking (f : Samples) (e : Store) : (e.append f).store = storeTaking f e := by
  unfold Store.append storeTaking Store.slip
  by_cases hRoom : e.frames.length < 4
  · rw [if_pos (show e.frames.length < Config.storeDepth from hRoom), if_pos hRoom]
  · rw [if_neg (show ¬ e.frames.length < Config.storeDepth from hRoom), if_neg hRoom]
    split <;> rfl

theorem append_event {f : Samples} {e : Store} (hFull : 4 ≤ e.frames.length) (hWindow : e.slipWindow = 0) :
    (e.append f).event = true := by
  rw [Store.append, if_neg (by simpa [Config.storeDepth] using hFull), Store.slip, if_pos hWindow]

theorem sideCodeOf_isNone_iff (c : BitVec 3) : (sideCodeOf c).isNone = true ↔ ¬ c.toNat < 6 := by
  revert c
  decide

theorem takeGood_counters (f : LinkFrame) (frame : FrameNo) (r : Receiver) : (r.takeGood f frame).counters
    = { r.counters with
        badSideCode := if (LinkFrame.sideCode f).toNat < 6 then r.counters.badSideCode
          else bump r.counters.badSideCode } := by
  simp only [Receiver.takeGood, sideCodeOf_isNone_iff, ite_not]

theorem clockTakes_event (now : Time) (c : RefClock) : ClockTakes now c (c.event now) := by
  unfold RefClock.event
  rcases c with ⟨_ | t, interval⟩ <;> exact ⟨rfl, by simp, by simp⟩

/-! ### What is left as it was -/

section kept

variable {i : Instr} {s t : State}

/-- A receiver's row keeps everything outside its footprint. -/
theorem receivers_row_kept (hExec : exec i s = .next t) (hBlock : rowBlock i = .receivers) : { t with
    now := s.now, receivers := s.receivers, stores := s.stores, assemblers := s.assemblers, mailboxes := s.mailboxes
    selector := s.selector, raised := s.raised } = s := by
  have hState : execState i s = t := by rw [execState, hExec]
  have hFrame := frame_row s i
  rw [hBlock, hState, Block.Frame] at hFrame
  rw [hFrame]

/-- The same, where no message reached a mailbox. -/
theorem receivers_row_kept_of_mailboxes (hExec : exec i s = .next t) (hBlock : rowBlock i = .receivers)
    (hMailboxes : t.mailboxes = s.mailboxes) : { t with
      now := s.now, receivers := s.receivers, stores := s.stores, assemblers := s.assemblers
      selector := s.selector, raised := s.raised } = s := by
  have hKept := receivers_row_kept hExec hBlock
  rw [← hMailboxes] at hKept
  exact hKept

end kept

theorem sideItem_assemblers_of_ne {s : State} {n m : Link} (h : m ≠ n) (i : SideItem) :
    (s.sideItem n i).assemblers.get m = s.assemblers.get m := by
  simp only [State.sideItem, State.completeMessage]
  split
  · simp [h]
  · split <;> simp [h, State.deliver]

theorem otherLinksKept_takeGoodFrame (n : Link) (f : LinkFrame) (s : State) :
    OtherLinksKept n s (s.takeGoodFrame n f).reportSources := by
  intro m hm
  simp [hm, State.takeGoodFrame, sideItem_assemblers_of_ne]

theorem otherLinksKept_takeConcealed (n : Link) (f : Receiver → Receiver) (s : State) :
    OtherLinksKept n s (s.takeConcealed n f).reportSources := by
  intro m hm
  simp [hm, State.takeConcealed, sideItem_assemblers_of_ne]

theorem otherLinksKept_leaveTo (n : Link) (f : Receiver → Receiver) (s : State) :
    OtherLinksKept n s (s.leaveTo n f).reportSources := by
  intro m hm
  refine ⟨by simp [hm], ?_, ?_⟩
  · simp only [State.reportSources_stores, leaveTo_stores]
    split <;> simp [hm]
  · simp only [State.reportSources_assemblers, State.leaveTo]
    split
    · rw [sideItem_assemblers_of_ne hm]
      simp [State.raiseLinkState]
    · simp [State.raiseLinkState]

theorem OtherLinksKept.frameArrived {n : Link} {elapsed : Time} {s t : State}
    (h : OtherLinksKept n (frameArrived n elapsed s) t) : OtherLinksKept n s t := by
  intro m hm
  obtain ⟨hReceiver, hStore, hAssembler⟩ := h m hm
  exact ⟨by rw [hReceiver]; simp [Machine.frameArrived, hm], hStore, hAssembler⟩

/-! ### Line activity (O11) -/

/-- A receiver that moves, with its LINK_STATE (R9). -/
theorem raiseLinkState_onReceiver (s : State) (n : Link) (f : Receiver → Receiver) :
    (s.onReceiver n f).raiseLinkState n = { s with
      receivers := s.receivers.put n (f (s.receivers.get n))
      raised := s.raised ++ [⟨.receiver n, s.everyone, .linkState n (f (s.receivers.get n)).state
        (f (s.receivers.get n)).degraded⟩] } := by
  simp only [State.raiseLinkState, State.onReceiver_receivers, Tab.get_modify, if_true]
  rfl

/-- Settles O11: each row by its own test, on the receiver as it stands. -/
theorem lineActivityMovesTheReceiver : Obligations.LineActivityMovesTheReceiver := by
  intro s n r pos elapsed hr u
  subst hr
  refine ⟨fun hState hIdle => ?start, rfl, fun began hState hBegan => ?complete, fun hState => ?found⟩
  case start => exact congrArg Host.Outcome.next (if_pos ⟨hState, hIdle⟩)
  case complete =>
    have hMoved : exec (.qualificationComplete n) s = .next
        (((s.advanceTo (began + Config.quarterMillisecond)).onReceiver n fun r =>
          { r with state := .search, qualifying := none }).raiseLinkState n) := by
      change execQualificationComplete n s = _
      simp only [execQualificationComplete, hState, hBegan]
    rw [hMoved, raiseLinkState_onReceiver]
    rfl
  case found =>
    have hMoved : exec (.alignmentPatternFound n pos elapsed) s = .next
        (((s.advance elapsed).onReceiver n fun r =>
          { r with state := .confirm, position := some pos, confirmCount := 0 }).raiseLinkState n) :=
      congrArg Host.Outcome.next (if_pos hState)
    rw [hMoved, raiseLinkState_onReceiver]
    rfl

/-! ### Leaving a position (R4, R7, R14, R133) -/

theorem leaveTo_raised (n : Link) (f : Receiver → Receiver) (s : State) : (s.leaveTo n f).raised
    = s.raised ++ [⟨.receiver n, s.everyone, .linkState n (f (s.receivers.get n)).state
      (f (s.receivers.get n)).degraded⟩] := by
  simp only [State.leaveTo, raiseLinkState_onReceiver]
  split
  · rw [sideItem_leaving]
    rfl
  · rfl

theorem leaveTo_assemblers (n : Link) (f : Receiver → Receiver) (s : State) : (s.leaveTo n f).assemblers
    = if (s.receivers.get n).state = .inFrame then s.assemblers.modify n fun a => { a with buffer := none }
      else s.assemblers := by
  simp only [State.leaveTo]
  split
  · rw [sideItem_leaving]
    simp [State.raiseLinkState]
  · simp [State.raiseLinkState]

theorem leaveTo_mailboxes (n : Link) (f : Receiver → Receiver) (s : State) :
    (s.leaveTo n f).mailboxes = s.mailboxes := by
  simp only [State.leaveTo]
  split
  · rw [sideItem_leaving]
    simp [State.raiseLinkState]
  · simp [State.raiseLinkState]

/-- What had been raised stays, and the LINK_STATE of the move is among what follows. -/
theorem leaveTo_reported (n : Link) (f : Receiver → Receiver) (s : State) :
    (⟨.receiver n, s.everyone, .linkState n (f (s.receivers.get n)).state (f (s.receivers.get n)).degraded⟩
        : RaisedEvent) ∈ (s.leaveTo n f).reportSources.raised
      ∧ ∃ more, (s.leaveTo n f).reportSources.raised = s.raised ++ more := by
  obtain ⟨more, hMore⟩ := State.raised_reportSources (s.leaveTo n f)
  rw [leaveTo_raised, List.append_assoc] at hMore
  rw [hMore]
  exact ⟨by simp, _, rfl⟩

/-! ### Loss of signal (O12) -/

theorem leave_of_outside {r : Receiver} (h : r.state ≠ .inFrame) (target : RxState) :
    r.leave target = { r with state := target, position := none } := by
  rw [Receiver.leave, if_neg h]

theorem leave_of_inFrame {r : Receiver} (h : r.state = .inFrame) (target : RxState) : r.leave target = { r with
    state := target, position := none, degraded := false, grade := 7, windowFrames := 0, windowDamage := 0 } := by
  rw [Receiver.leave, if_pos h]
  rfl

/-- The receiver LOSS_OF_SIGNAL leaves, but for the time. -/
def Receiver.loseSignal (r : Receiver) : Receiver :=
  { r.leave .noSignal with counters := { r.counters with lossOfSignal := bump r.counters.lossOfSignal } }

theorem lossOfSignal_taken {s : State} {n : Link} (elapsed : Time) (hState : (s.receivers.get n).state = .search
      ∨ (s.receivers.get n).state = .confirm ∨ (s.receivers.get n).state = .inFrame) :
    exec (.lossOfSignal n elapsed) s = .next ((s.advance elapsed).leaveTo n Receiver.loseSignal).reportSources := by
  change execLossOfSignal n elapsed s = _
  rcases hState with h | h | h <;>
    · simp only [execLossOfSignal, State.advance_receivers, h]
      rfl

/-- What a receiver, its store and its assembler are after a move out of a position, the selector told. -/
structure Left (n : Link) (f : Receiver → Receiver) (u t : State) : Prop where
  receiver : t.receivers.get n = f (u.receivers.get n)
  outside : (u.receivers.get n).state ≠ .inFrame →
    t.stores.get n = u.stores.get n ∧ t.assemblers.get n = u.assemblers.get n
  inFrame : (u.receivers.get n).state = .inFrame → t.stores.get n = (u.stores.get n).release
    ∧ t.assemblers.get n = { u.assemblers.get n with buffer := none }
  linkState : (⟨.receiver n, u.everyone, .linkState n (f (u.receivers.get n)).state (f (u.receivers.get n)).degraded⟩
    : RaisedEvent) ∈ t.raised
  raised : ∃ more, t.raised = u.raised ++ more
  others : OtherLinksKept n u t
  mailboxes : t.mailboxes = u.mailboxes

theorem left_leaveTo (n : Link) (f : Receiver → Receiver) (u : State) : Left n f u (u.leaveTo n f).reportSources := by
  obtain ⟨hMem, hMore⟩ := leaveTo_reported n f u
  exact {
    receiver := by simp
    outside := fun h => ⟨by simp [h], by simp [leaveTo_assemblers, h]⟩
    inFrame := fun h => ⟨by simp [h], by simp [leaveTo_assemblers, h]⟩
    linkState := hMem
    raised := hMore
    others := otherLinksKept_leaveTo n f u
    mailboxes := by simp [leaveTo_mailboxes] }

/-- Settles O12: `leaveTo`, whose store and assembler follow only from IN_FRAME. -/
theorem lossOfSignalLeavesTheFrame : Obligations.LossOfSignalLeavesTheFrame := by
  intro s n r elapsed hr hState
  subst hr
  have hExec := lossOfSignal_taken elapsed hState
  have hLeft := left_leaveTo n Receiver.loseSignal (s.advance elapsed)
  generalize ((s.advance elapsed).leaveTo n Receiver.loseSignal).reportSources = t at hExec hLeft
  refine ⟨t, hExec, fun hOutside => ⟨?outside, hLeft.outside hOutside⟩, fun hInFrame => ⟨?inFrame, hLeft.inFrame hInFrame⟩,
    ?event, hLeft.raised, hLeft.others, receivers_row_kept_of_mailboxes hExec rfl hLeft.mailboxes⟩
  case outside =>
    rw [hLeft.receiver, State.advance_receivers, Receiver.loseSignal, leave_of_outside hOutside]
  case inFrame =>
    rw [hLeft.receiver, State.advance_receivers, Receiver.loseSignal, leave_of_inFrame hInFrame]
  case event =>
    rw [hLeft.receiver]
    exact hLeft.linkState

/-! ### A good frame taken (R7 to R13, R15) -/

section good

variable (u : State) (n : Link) (f : LinkFrame)

theorem good_receiver : (u.takeGoodFrame n f).reportSources.receivers.get n
    = ((u.receivers.get n).takeGood f u.frame).window false := by
  simp

theorem good_store : (u.takeGoodFrame n f).reportSources.stores.get n
    = storeTaking (LinkFrame.samples f) (u.stores.get n) := by
  simp [append_eq_storeTaking]

theorem good_raised : ∃ more, (u.takeGoodFrame n f).reportSources.raised = u.raised ++ more := by
  obtain ⟨taken, hTaken, -⟩ := raised_takeGoodFrame n f u
  obtain ⟨more, hMore⟩ := State.raised_reportSources (u.takeGoodFrame n f)
  exact ⟨taken ++ more, by rw [hMore, hTaken, List.append_assoc]⟩

end good

/-- A store that is full with its window closed raises SLIP for the frame it drops (R18). -/
theorem appendFrame_slip {u : State} {n : Link} (f : Samples) (hFull : 4 ≤ (u.stores.get n).frames.length)
    (hWindow : (u.stores.get n).slipWindow = 0) :
    (⟨.store n, u.everyone, .slip n .dropped⟩ : RaisedEvent) ∈ (u.appendFrame n f).raised := by
  rw [State.appendFrame]
  simp only [append_event hFull hWindow, if_true]
  exact List.mem_append_right _ (List.mem_singleton.mpr rfl)

/-- A change of DEGRADED raises LINK_STATE (R11). -/
theorem windowFrame_linkState {u : State} {n : Link} {bad : Bool}
    (hChanged : ((u.receivers.get n).window bad).degraded ≠ (u.receivers.get n).degraded) :
    (⟨.receiver n, u.everyone, .linkState n (u.receivers.get n).state ((u.receivers.get n).window bad).degraded⟩
      : RaisedEvent) ∈ (u.windowFrame n bad).raised := by
  simp only [State.windowFrame, State.onReceiver_receivers, Tab.get_modify, if_true, if_neg hChanged]
  simp [State.raiseLinkState, State.raise]

end Sys2Proof.Machine
end

section
/-! Frames that arrive (R6 to R15): the third confirming frame, a good frame in IN_FRAME, a concealed one, and the fourth
misaligned one in a row. -/

namespace Sys2Proof.Machine

/-! ### A good frame taken, the selector told -/

/-- What a good frame taken on link n leaves of the receiver, the store, the side item and the events. -/
structure TakenWhole (n : Link) (f : LinkFrame) (u t : State) : Prop where
  receiver : t.receivers.get n = ((u.receivers.get n).takeGood f u.frame).window false
  store : t.stores.get n = storeTaking (LinkFrame.samples f) (u.stores.get n)
  slip : (u.stores.get n).frames.length ≥ 4 → (u.stores.get n).slipWindow = 0 →
    (⟨.store n, u.everyone, .slip n .dropped⟩ : RaisedEvent) ∈ t.raised
  linkState : (t.receivers.get n).degraded ≠ (u.receivers.get n).degraded →
    (⟨.receiver n, u.everyone, .linkState n (u.receivers.get n).state (t.receivers.get n).degraded⟩ : RaisedEvent)
      ∈ t.raised
  raised : ∃ more, t.raised = u.raised ++ more
  others : OtherLinksKept n u t
  side : SideItemReaches n (goodItem f) u t

theorem mem_sideItem {n : Link} {i : SideItem} {u : State} {ev : RaisedEvent} (h : ev ∈ u.raised) :
    ev ∈ (u.sideItem n i).raised := by
  obtain ⟨l, hl, -⟩ := raised_sideItem n i u
  rw [hl]
  exact List.mem_append_left _ h

theorem mem_appendFrame {n : Link} {f : Samples} {u : State} {ev : RaisedEvent} (h : ev ∈ u.raised) :
    ev ∈ (u.appendFrame n f).raised := by
  obtain ⟨l, hl, -⟩ := raised_appendFrame n f u
  rw [hl]
  exact List.mem_append_left _ h

/-- A frame's window, side item and append, after a change of the receiver that keeps its state and DEGRADED: the SLIP and
the LINK_STATE they may raise (R11, R18). -/
theorem slip_of_frame {u : State} {n : Link} {g : Receiver → Receiver} (bad : Bool) (i : SideItem) (x : Samples)
    (hFull : (u.stores.get n).frames.length ≥ 4) (hWindow : (u.stores.get n).slipWindow = 0) :
    (⟨.store n, u.everyone, .slip n .dropped⟩ : RaisedEvent)
      ∈ ((((u.onReceiver n g).windowFrame n bad).sideItem n i).appendFrame n x).raised := by
  have hSlip := appendFrame_slip (u := ((u.onReceiver n g).windowFrame n bad).sideItem n i) (n := n) x
    (by simpa using hFull) (by simpa using hWindow)
  simpa using hSlip

theorem linkState_of_frame {u : State} {n : Link} {g : Receiver → Receiver} {bad : Bool} (i : SideItem) (x : Samples)
    (hState : (g (u.receivers.get n)).state = (u.receivers.get n).state)
    (hDegraded : (g (u.receivers.get n)).degraded = (u.receivers.get n).degraded)
    (hChanged : ((g (u.receivers.get n)).window bad).degraded ≠ (u.receivers.get n).degraded) :
    (⟨.receiver n, u.everyone, .linkState n (u.receivers.get n).state ((g (u.receivers.get n)).window bad).degraded⟩
      : RaisedEvent) ∈ ((((u.onReceiver n g).windowFrame n bad).sideItem n i).appendFrame n x).raised := by
  have hEvent := windowFrame_linkState (u := u.onReceiver n g) (n := n) (bad := bad) (by simpa [hDegraded] using hChanged)
  have hReceiver : (u.onReceiver n g).receivers.get n = g (u.receivers.get n) := by simp
  rw [hReceiver, hState] at hEvent
  exact mem_appendFrame (mem_sideItem hEvent)

theorem takenWhole (n : Link) (f : LinkFrame) (u : State) : TakenWhole n f u (u.takeGoodFrame n f).reportSources where
  receiver := good_receiver u n f
  store := good_store u n f
  slip hFull hWindow := State.mem_reportSources _ _ (slip_of_frame false _ _ hFull hWindow)
  linkState hChanged := by
    rw [good_receiver] at hChanged ⊢
    exact State.mem_reportSources _ _ (linkState_of_frame _ _ rfl rfl hChanged)
  raised := good_raised u n f
  others := otherLinksKept_takeGoodFrame n f u
  side := sideItemReaches_takeGoodFrame n f u

/-- The receiver after a good frame, field by field. -/
theorem takeGood_window (f : LinkFrame) (frame : FrameNo) (r : Receiver) : (r.takeGood f frame).window false = { r with
    missCount := 0, lastGood := some (LinkFrame.record f frame), grade := LinkFrame.grade f
    counters := { r.counters with
      badSideCode := if (LinkFrame.sideCode f).toNat < 6 then r.counters.badSideCode
        else bump r.counters.badSideCode }
    windowFrames := (windowStep false r.windowFrames r.windowDamage r.degraded).1
    windowDamage := (windowStep false r.windowFrames r.windowDamage r.degraded).2.1
    degraded := (windowStep false r.windowFrames r.windowDamage r.degraded).2.2 } := by
  rw [window_eq, takeGood_counters]
  rfl

/-- The receiver of a frame that arrived: the frame is a reference event (R35). -/
theorem frameArrived_receiver (n : Link) (elapsed : Time) (s : State) : (frameArrived n elapsed s).receivers.get n
    = { s.receivers.get n with clock := (s.receivers.get n).clock.event (s.now + elapsed) } := by
  simp [frameArrived, Receiver.referenceEvent]

/-- Settles O14: `takenWhole` after the arrival as a reference event. -/
theorem goodFrameIsTakenWhole : Obligations.GoodFrameIsTakenWhole := by
  intro s n r pos f elapsed hr hState hPosition hAligned hCrc
  subst hr
  have hExec := frameArrival_good elapsed hState hPosition hAligned hCrc
  have hTaken := takenWhole n f (frameArrived n elapsed s)
  generalize ((frameArrived n elapsed s).takeGoodFrame n f).reportSources = t at hExec hTaken
  have hReceiver := hTaken.receiver
  have hLinkState := hTaken.linkState
  rw [frameArrived_receiver, takeGood_window] at hReceiver
  rw [frameArrived_receiver, hState] at hLinkState
  refine ⟨t, hExec, ?_, ?_, ?_, ?_, ?_, ?_, ?_, ?_, hTaken.store, hTaken.slip, hLinkState, hTaken.raised,
    hTaken.others.frameArrived, receivers_row_kept hExec rfl⟩
  all_goals rw [hReceiver]
  · exact hState
  · exact hPosition
  · rfl
  · exact clockTakes_event _ _

/-! ### A confirming frame (R6) -/

/-- What the third confirming frame finds: the receiver IN_FRAME with a fresh window, its store CENTERING. -/
def enteredInFrame (n : Link) (elapsed : Time) (s : State) : State :=
  (((s.advance elapsed).onReceiver n fun r =>
    { r.enterInFrame.referenceEvent (s.now + elapsed) with confirmCount := 3 }).raiseLinkState n).onStore n Store.center

section confirm

variable {s : State} {n : Link} {pos : BitPos} {f : LinkFrame} (elapsed : Time)
  (hState : (s.receivers.get n).state = .confirm) (hPosition : (s.receivers.get n).position = some pos)
include hState hPosition

theorem confirmFrame_missed (hMiss : ¬ (LinkFrame.aligned f = true ∧ LinkFrame.crcGood f = true)) :
    exec (.confirmFrameArrival n pos f elapsed) s = .next (((s.advance elapsed).onReceiver n fun r =>
      { r with state := .search, position := none }).raiseLinkState n) := by
  change execConfirmFrameArrival n pos f elapsed s = _
  simp only [execConfirmFrameArrival, State.advance_receivers, if_pos (And.intro hState hPosition), if_neg hMiss]

theorem confirmFrame_counted (hAligned : LinkFrame.aligned f = true) (hCrc : LinkFrame.crcGood f = true)
    (hCount : (s.receivers.get n).confirmCount < 2) :
    exec (.confirmFrameArrival n pos f elapsed) s = .next ((s.advance elapsed).onReceiver n fun r =>
      { r with confirmCount := r.confirmCount + 1 }) := by
  have hMore : (s.receivers.get n).confirmCount + 1 < 3 := by omega
  exact congrArg Host.Outcome.next ((if_pos ⟨hState, hPosition⟩).trans ((if_pos ⟨hAligned, hCrc⟩).trans (if_pos hMore)))

theorem confirmFrame_third (hAligned : LinkFrame.aligned f = true) (hCrc : LinkFrame.crcGood f = true)
    (hCount : 2 ≤ (s.receivers.get n).confirmCount) : exec (.confirmFrameArrival n pos f elapsed) s
      = .next ((enteredInFrame n elapsed s).takeGoodFrame n f).reportSources := by
  have hThird : ¬ (s.receivers.get n).confirmCount + 1 < 3 := by omega
  exact congrArg Host.Outcome.next
    ((if_pos ⟨hState, hPosition⟩).trans ((if_pos ⟨hAligned, hCrc⟩).trans (if_neg hThird)))

end confirm

theorem enteredInFrame_eq (n : Link) (elapsed : Time) (s : State) : enteredInFrame n elapsed s = { s with
    now := s.now + elapsed
    receivers := s.receivers.put n { s.receivers.get n with
      state := .inFrame, missCount := 0, windowFrames := 0, windowDamage := 0, confirmCount := 3
      clock := (s.receivers.get n).clock.event (s.now + elapsed) }
    stores := s.stores.modify n Store.center
    raised := s.raised ++ [⟨.receiver n, s.everyone, .linkState n .inFrame (s.receivers.get n).degraded⟩] } := by
  rw [enteredInFrame, raiseLinkState_onReceiver]
  rfl

theorem OtherLinksKept.enteredInFrame {n : Link} {elapsed : Time} {s t : State}
    (h : OtherLinksKept n (enteredInFrame n elapsed s) t) : OtherLinksKept n s t := by
  intro m hm
  obtain ⟨hReceiver, hStore, hAssembler⟩ := h m hm
  rw [enteredInFrame_eq] at hReceiver hStore hAssembler
  exact ⟨by rw [hReceiver]; simp [hm], by rw [hStore]; simp [hm], hAssembler⟩

theorem sideItemReaches_of_enteredInFrame {n : Link} {i : SideItem} {elapsed : Time} {s t : State}
    (h : SideItemReaches n i (enteredInFrame n elapsed s) t) : SideItemReaches n i s t := by
  rw [enteredInFrame_eq] at h
  refine h.congr rfl rfl rfl rfl rfl (fun p => ?_) rfl rfl fun _ => rfl
  refine (overflowEvents_add p [_] rfl fun ev hev => ?_).symm
  rw [List.mem_singleton.mp hev]
  exact everyone_all s

/-- Settles O13: a miss and a count on the receiver alone; the third frame is `takenWhole` by the receiver that has
entered IN_FRAME. -/
theorem thirdConfirmingFrameEntersInFrame : Obligations.ThirdConfirmingFrameEntersInFrame := by
  intro s n r pos f elapsed hr u hState hPosition
  subst hr
  refine ⟨fun hMiss => ?missed, fun hAligned hCrc hCount => confirmFrame_counted elapsed hState hPosition hAligned hCrc hCount,
    fun hAligned hCrc hCount => ?third⟩
  case missed =>
    rw [confirmFrame_missed elapsed hState hPosition hMiss, raiseLinkState_onReceiver]
    rfl
  case third =>
    have hExec := confirmFrame_third elapsed hState hPosition hAligned hCrc hCount
    have hTaken := takenWhole n f (enteredInFrame n elapsed s)
    generalize ((enteredInFrame n elapsed s).takeGoodFrame n f).reportSources = t at hExec hTaken
    have hReceiver := hTaken.receiver
    have hStore := hTaken.store
    obtain ⟨more, hRaised⟩ := hTaken.raised
    simp only [enteredInFrame_eq, Tab.get_put, if_true, takeGood_window] at hReceiver
    simp only [enteredInFrame_eq, Tab.get_modify, if_true] at hStore
    rw [enteredInFrame_eq] at hRaised
    refine ⟨t, hExec, ?_, ?_, ?_, ?_, ?_, ?_, ?_, ?_, ?_, sideItemReaches_of_enteredInFrame hTaken.side, hStore, ?event, ?more,
      hTaken.others.enteredInFrame, receivers_row_kept hExec rfl⟩
    case event => rw [hRaised]; simp
    case more => exact ⟨_, hRaised.trans (List.append_assoc _ _ _)⟩
    all_goals rw [hReceiver]
    · exact hPosition
    · rfl
    · rfl
    · rfl
    · exact clockTakes_event _ _

/-! ### A frame concealed (R8, R133) -/

/-- An item that completes no message changes its assembler alone. -/
theorem sideItem_of_no_message {u : State} {n : Link} {i : SideItem} {a : Assembler}
    (h : (u.assemblers.get n).item i = (a, none)) : u.sideItem n i = u.onAssembler n fun _ => a := by
  simp only [State.sideItem, h]

/-- The damaged marker abandons a message in progress, with one count, and nothing else. -/
theorem sideItem_damaged (u : State) (n : Link) : u.sideItem n .damaged = u.onAssembler n fun a =>
    if a.buffer = none then a else { a with buffer := none, damaged := bump a.damaged } := by
  rcases hBuffer : (u.assemblers.get n).buffer with _ | buf
  · rw [sideItem_of_no_message (a := u.assemblers.get n) (by rw [item_of_idle hBuffer]; rfl)]
    simp only [State.onAssembler, Tab.modify, hBuffer, if_true]
  · rw [sideItem_of_no_message (by rw [item_of_assembling hBuffer]; rfl)]
    simp [State.onAssembler, Tab.modify, hBuffer]

/-- What a concealed frame leaves of the receiver, the store, the assembler and the events. -/
structure TakenConcealed (n : Link) (g : Receiver → Receiver) (u t : State) : Prop where
  receiver : t.receivers.get n = (g (u.receivers.get n)).window true
  store : t.stores.get n = storeTaking (u.receivers.get n).concealed (u.stores.get n)
  slip : (u.stores.get n).frames.length ≥ 4 → (u.stores.get n).slipWindow = 0 →
    (⟨.store n, u.everyone, .slip n .dropped⟩ : RaisedEvent) ∈ t.raised
  linkState : (t.receivers.get n).degraded ≠ (u.receivers.get n).degraded →
    (⟨.receiver n, u.everyone, .linkState n (u.receivers.get n).state (t.receivers.get n).degraded⟩ : RaisedEvent)
      ∈ t.raised
  raised : ∃ more, t.raised = u.raised ++ more
  assembler : t.assemblers.get n = if (u.assemblers.get n).buffer = none then u.assemblers.get n
    else { u.assemblers.get n with buffer := none, damaged := bump (u.assemblers.get n).damaged }
  mailboxes : t.mailboxes = u.mailboxes
  others : OtherLinksKept n u t

theorem takenConcealed (n : Link) {g : Receiver → Receiver} {u : State}
    (hState : (g (u.receivers.get n)).state = (u.receivers.get n).state)
    (hDegraded : (g (u.receivers.get n)).degraded = (u.receivers.get n).degraded) :
    TakenConcealed n g u (u.takeConcealed n g).reportSources where
  receiver := by simp
  store := by simp [append_eq_storeTaking]
  slip hFull hWindow := State.mem_reportSources _ _ (slip_of_frame true _ _ hFull hWindow)
  linkState hChanged := by
    have hReceiver : (u.takeConcealed n g).reportSources.receivers.get n = (g (u.receivers.get n)).window true := by
      simp
    rw [hReceiver] at hChanged ⊢
    exact State.mem_reportSources _ _ (linkState_of_frame _ _ hState hDegraded hChanged)
  raised := by
    obtain ⟨taken, hTaken, -⟩ := raised_takeConcealed n g u
    obtain ⟨more, hMore⟩ := State.raised_reportSources (u.takeConcealed n g)
    exact ⟨taken ++ more, by rw [hMore, hTaken, List.append_assoc]⟩
  assembler := by simp [State.takeConcealed, sideItem_damaged]
  mailboxes := by simp [State.takeConcealed, sideItem_damaged]
  others := otherLinksKept_takeConcealed n g u

/-! ### The other classes of a frame that arrives (R7) -/

/-- The fourth misaligned frame in a row, at the receiver. -/
def Receiver.loseFrame (r : Receiver) : Receiver :=
  { r.takeMisaligned.leave .search with
    counters := { r.takeMisaligned.counters with lossOfFrame := bump r.counters.lossOfFrame } }

section arrival

variable {s : State} {n : Link} {pos : BitPos} {f : LinkFrame} (elapsed : Time)
  (hState : (s.receivers.get n).state = .inFrame) (hPosition : (s.receivers.get n).position = some pos)
include hState hPosition

theorem frameArrival_damaged (hAligned : LinkFrame.aligned f = true) (hCrc : LinkFrame.crcGood f = false) :
    exec (.frameArrival n pos f elapsed) s
      = .next ((frameArrived n elapsed s).takeConcealed n Receiver.takeDamaged).reportSources :=
  congrArg Host.Outcome.next ((if_pos ⟨hState, hPosition⟩).trans
    (congrArg State.reportSources ((if_pos hAligned).trans (if_neg (by simp [hCrc])))))

theorem frameArrival_misaligned (hAligned : LinkFrame.aligned f = false) (hMisses : (s.receivers.get n).missCount < 3) :
    exec (.frameArrival n pos f elapsed) s
      = .next ((frameArrived n elapsed s).takeConcealed n Receiver.takeMisaligned).reportSources := by
  have hFew : (s.receivers.get n).missCount + 1 < 4 := by omega
  exact congrArg Host.Outcome.next ((if_pos ⟨hState, hPosition⟩).trans
    (congrArg State.reportSources ((if_neg (by simp [hAligned])).trans (if_pos hFew))))

theorem frameArrival_lost (hAligned : LinkFrame.aligned f = false) (hMisses : 3 ≤ (s.receivers.get n).missCount) :
    exec (.frameArrival n pos f elapsed) s
      = .next ((frameArrived n elapsed s).leaveTo n Receiver.loseFrame).reportSources := by
  have hFourth : ¬ (s.receivers.get n).missCount + 1 < 4 := by omega
  exact congrArg Host.Outcome.next ((if_pos ⟨hState, hPosition⟩).trans
    (congrArg State.reportSources ((if_neg (by simp [hAligned])).trans (if_neg hFourth))))

end arrival

/-- Settles O15: both kinds are concealed by `takenConcealed`, each with its own count. -/
theorem damagedAndMisalignedFramesAreConcealed : Obligations.DamagedAndMisalignedFramesAreConcealed := by
  intro s n r pos f g elapsed hr hState hPosition hGood hClass
  subst hr
  obtain ⟨take, hTake, hExec⟩ : ∃ take : Receiver → Receiver,
      (∀ r, take r = { r with
        missCount := if LinkFrame.aligned f then 0 else r.missCount + 1
        counters := if LinkFrame.aligned f then { r.counters with damaged := bump r.counters.damaged }
          else { r.counters with misaligned := bump r.counters.misaligned } })
      ∧ exec (.frameArrival n pos f elapsed) s
        = .next ((frameArrived n elapsed s).takeConcealed n take).reportSources := by
    rcases hClass with ⟨hAligned, hCrc⟩ | ⟨hAligned, hMisses⟩
    · exact ⟨_, fun r => by rw [hAligned]; rfl, frameArrival_damaged elapsed hState hPosition hAligned hCrc⟩
    · exact ⟨_, fun r => by rw [hAligned]; rfl, frameArrival_misaligned elapsed hState hPosition hAligned hMisses⟩
  have hTaken := takenConcealed n (u := frameArrived n elapsed s) (g := take) (by rw [hTake]) (by rw [hTake])
  generalize ((frameArrived n elapsed s).takeConcealed n take).reportSources = t at hExec hTaken
  have hReceiver := hTaken.receiver
  have hLinkState := hTaken.linkState
  have hStore := hTaken.store
  rw [frameArrived_receiver, hTake, window_eq] at hReceiver
  rw [frameArrived_receiver, hState] at hLinkState
  rw [frameArrived_receiver, Receiver.concealed] at hStore
  simp only [hGood] at hStore
  refine ⟨t, hExec, ?_, ?_, ?_, ?_, ?_, ?_, ?_, ?_, hStore, hTaken.slip, hLinkState, hTaken.raised,
    fun hIdle => ?idle, fun hAssembling => ?assembling, hTaken.others.frameArrived,
    receivers_row_kept_of_mailboxes hExec rfl hTaken.mailboxes⟩
  case idle => exact hTaken.assembler.trans (if_pos hIdle)
  case assembling => exact hTaken.assembler.trans (if_neg hAssembling)
  all_goals rw [hReceiver]
  · exact hState
  · exact hPosition
  · exact hGood
  · exact clockTakes_event _ _

/-- Settles O16: the receiver leaves its position, once the miss is counted. -/
theorem fourthMisalignedFrameIsLossOfFrame : Obligations.FourthMisalignedFrameIsLossOfFrame := by
  intro s n r pos f elapsed hr hState hPosition hAligned hMisses
  subst hr
  have hExec := frameArrival_lost elapsed hState hPosition hAligned hMisses
  have hLeft := left_leaveTo n Receiver.loseFrame (frameArrived n elapsed s)
  generalize ((frameArrived n elapsed s).leaveTo n Receiver.loseFrame).reportSources = t at hExec hLeft
  have hInFrame : ((frameArrived n elapsed s).receivers.get n).state = .inFrame := by
    rw [frameArrived_receiver]
    exact hState
  have hReceiver := hLeft.receiver
  have hEvent := hLeft.linkState
  obtain ⟨hStore, hAssembler⟩ := hLeft.inFrame hInFrame
  rw [Receiver.loseFrame, leave_of_inFrame (by exact hInFrame), frameArrived_receiver] at hReceiver hEvent
  refine ⟨t, hExec, ?_, ?_, ?_, ?_, ?_, ?_, ?_, ?_, ?clock, hStore, hAssembler, hEvent, hLeft.raised,
    hLeft.others.frameArrived, receivers_row_kept_of_mailboxes hExec rfl hLeft.mailboxes⟩
  case clock =>
    rw [hReceiver]
    exact clockTakes_event _ _
  all_goals rw [hReceiver]
  all_goals rfl

end Sys2Proof.Machine
end

section
/-! The word-clock monitor and the selector's timers (R39 to R41, R45, R50): a report of a source makes the rows follow it,
whichever event it comes from. -/

namespace Sys2Proof.Machine

/-! ### The word-clock monitor (R40) -/

theorem good_eq_monitorAfter (m : WclkMonitor) :
    (m.good.present, m.good.goodRun, m.good.badRun) = monitorAfter true m := by
  unfold WclkMonitor.good monitorAfter
  rcases hPresent : m.present with _ | _
  · by_cases hRun : m.goodRun + 1 < 32
    · simp [Config.wclkGoodRun, hRun, Nat.not_le.mpr hRun]
    · simp [Config.wclkGoodRun, hRun, Nat.not_lt.mp hRun]
  · simp

theorem bad_eq_monitorAfter (m : WclkMonitor) :
    (m.bad.present, m.bad.goodRun, m.bad.badRun) = monitorAfter false m := by
  unfold WclkMonitor.bad monitorAfter
  rcases hPresent : m.present with _ | _
  · simp
  · by_cases hRun : m.badRun + 1 < 4
    · simp [Config.wclkBadRun, hRun, Nat.not_le.mpr hRun]
    · simp [Config.wclkBadRun, hRun, Nat.not_lt.mp hRun]

theorem edge_untimed {m : WclkMonitor} (h : m.timedFrom = none) (now frameLength : Time) :
    m.edge now frameLength = { m with timedFrom := some now, clock := m.clock.event now } := by
  simp only [WclkMonitor.edge, h]

theorem edge_timed {m : WclkMonitor} {began : Time} (h : m.timedFrom = some began) (now frameLength : Time) :
    m.edge now frameLength = { (if goodInterval frameLength (now - began) then m.good else m.bad) with
      timedFrom := some now, clock := m.clock.event now } := by
  simp only [WclkMonitor.edge, h]

theorem edge_timing (m : WclkMonitor) (now frameLength : Time) :
    (m.edge now frameLength).timedFrom = some now ∧ (m.edge now frameLength).clock = m.clock.event now :=
  ⟨rfl, rfl⟩

theorem edge_counts {m : WclkMonitor} {began : Time} (h : m.timedFrom = some began) (now frameLength : Time) :
    ((m.edge now frameLength).present, (m.edge now frameLength).goodRun, (m.edge now frameLength).badRun)
      = monitorAfter (goodInterval frameLength (now - began)) m := by
  rw [edge_timed h]
  rcases goodInterval frameLength (now - began) with _ | _
  · exact bad_eq_monitorAfter m
  · exact good_eq_monitorAfter m

/-- A report changes the selector and what is raised, and nothing else. -/
theorem reportSources_kept {s u : State} (h : { u with now := s.now, selector := s.selector, raised := s.raised } = s) :
    { u.reportSources with now := s.now, selector := s.selector, raised := s.raised } = s := by
  rw [State.reportSources_frame]
  exact h

/-- Settles O18: the monitor after an edge and after a missing interval, which the report to the selector keeps. -/
theorem wordClockMonitorTimesTheEdges : Obligations.WordClockMonitorTimesTheEdges := by
  intro s m elapsed now hm hnow
  subst hm hnow
  refine ⟨?edge, fun began hBegan => ?missing⟩
  case edge =>
    have hMonitor : (execState (.wclkRisingEdge elapsed) s).selector.monitor
        = s.selector.monitor.edge (s.now + elapsed) s.timing.frameLength := by
      simp [execState, exec, execWclkRisingEdge]
    refine ⟨_, exec_eq_next s (.wclkRisingEdge elapsed), ?_, ?_⟩
    · simp [execState, exec, execWclkRisingEdge]
    rw [hMonitor]
    refine ⟨rfl, ?_, fun e he => ?_, fun hUntimed => ?_, fun began hBegan => edge_counts hBegan _ _,
      reportSources_kept rfl⟩
    · exact (clockTakes_event _ _).1
    · exact (clockTakes_event _ _).2.1 e he
    · rw [edge_untimed hUntimed]
  case missing =>
    have hExec : exec .wclkMissingInterval s = .next
        ((s.advanceTo (began + 201 * s.timing.frameLength / 200)).onSelector fun l => { l with
          monitor := { l.monitor.bad with timedFrom := some (began + 201 * s.timing.frameLength / 200) } }).reportSources := by
      change execWclkMissingInterval s = _
      simp only [execWclkMissingInterval, hBegan]
    have hClock : s.selector.monitor.bad.clock = s.selector.monitor.clock := by
      unfold WclkMonitor.bad
      repeat' split
      all_goals rfl
    refine ⟨_, hExec, by simp, ?_, ?_, ?_, reportSources_kept rfl⟩
    all_goals rw [State.reportSources_sel_monitor]
    · rfl
    · exact hClock
    · exact bad_eq_monitorAfter _

/-! ### Reports of the sources (R39, R41, R45) -/

/-- A report after an event that left the selector as it was. -/
theorem rowsFollow_told {s u : State} (hSelector : u.selector = s.selector)
    (hRaised : ∃ l, u.raised = s.raised ++ l ∧ ∀ ev ∈ l, ev.source ≠ .selector) :
    RowsFollowTheirSources s u.reportSources := by
  obtain ⟨own, hOwn, hSource⟩ := hRaised
  exact rowsFollow_reportSources s u own (by rw [hSelector]) hOwn hSource

section untold

/-! An event that leaves every source as it was. -/

variable {s u : State} (hRows : ∀ r, (s.row r).qualification = .absent ↔ s.rowPresent r = false)
  (hSelector : u.selector = s.selector)
include hRows hSelector

theorem rowsFollow_untold (hLinks : ∀ n g, u.linkPresent n g = s.linkPresent n g)
    (hRaised : ∃ l, u.raised = s.raised ++ l ∧ ∀ ev ∈ l, ev.source ≠ .selector) : RowsFollowTheirSources s u := by
  obtain ⟨own, hOwn, hSource⟩ := hRaised
  refine rowsFollow_unchanged s u own hRows hSelector (fun source limit => ?_) hOwn hSource
  cases source with
  | link n => exact hLinks n limit
  | wclk => rw [sourcePresent, sourcePresent, hSelector]
  | empty => rfl

end untold

/-- A receiver that moves outside IN_FRAME, with its LINK_STATE or without. -/
theorem rowsFollow_moved {s w : State} (hRows : ∀ r, (s.row r).qualification = .absent ↔ s.rowPresent r = false)
    (hSelector : w.selector = s.selector) (hReceivers : w.receivers = s.receivers) (hRaised : w.raised = s.raised)
    {n : Link} {f : Receiver → Receiver} (hBefore : (s.receivers.get n).state ≠ .inFrame)
    (hAfter : (f (s.receivers.get n)).state ≠ .inFrame) :
    RowsFollowTheirSources s (w.onReceiver n f) ∧ RowsFollowTheirSources s ((w.onReceiver n f).raiseLinkState n) := by
  have hLinks (m : Link) (g : Grade) : (w.onReceiver n f).linkPresent m g = s.linkPresent m g := by
    by_cases hm : m = n
    · subst hm
      rw [linkPresent_outside hBefore, linkPresent_outside]
      rwa [State.onReceiver_receivers, Tab.get_modify, if_pos rfl, hReceivers]
    · simp only [State.linkPresent, State.onReceiver_receivers, Tab.get_modify, if_neg hm, hReceivers]
  exact ⟨rowsFollow_untold hRows hSelector hLinks ⟨[], by simp [hRaised], by simp⟩,
    rowsFollow_untold hRows hSelector hLinks ⟨_, by rw [raiseLinkState_onReceiver, hRaised], by simp⟩⟩

section arrivals

variable {s : State} {n : Link} {pos : BitPos} {f : LinkFrame} {elapsed : Time}

theorem rowsFollow_frameArrival (hRows : ∀ r, (s.row r).qualification = .absent ↔ s.rowPresent r = false) :
    ∃ t, exec (.frameArrival n pos f elapsed) s = .next t ∧ RowsFollowTheirSources s t := by
  by_cases hAt : (s.receivers.get n).state = .inFrame ∧ (s.receivers.get n).position = some pos
  · obtain ⟨hState, hPosition⟩ := hAt
    rcases hAligned : LinkFrame.aligned f with _ | _
    · by_cases hMisses : (s.receivers.get n).missCount < 3
      · exact ⟨_, frameArrival_misaligned elapsed hState hPosition hAligned hMisses,
          rowsFollow_told (by simp [frameArrived]) (raised_takeConcealed n _ (frameArrived n elapsed s))⟩
      · exact ⟨_, frameArrival_lost elapsed hState hPosition hAligned (by omega),
          rowsFollow_told (by simp [frameArrived]) (raised_leaveTo n _ (frameArrived n elapsed s))⟩
    · rcases hCrc : LinkFrame.crcGood f with _ | _
      · exact ⟨_, frameArrival_damaged elapsed hState hPosition hAligned hCrc,
          rowsFollow_told (by simp [frameArrived]) (raised_takeConcealed n _ (frameArrived n elapsed s))⟩
      · exact ⟨_, frameArrival_good elapsed hState hPosition hAligned hCrc,
          rowsFollow_told (by simp [frameArrived]) (raised_takeGoodFrame n f (frameArrived n elapsed s))⟩
  · exact ⟨s.advance elapsed, congrArg Host.Outcome.next (if_neg hAt),
      rowsFollow_untold hRows rfl (fun _ _ => rfl) ⟨[], by simp, by simp⟩⟩

theorem enteredInFrame_raised (n : Link) (elapsed : Time) (s : State) : (enteredInFrame n elapsed s).raised
    = s.raised ++ [⟨.receiver n, s.everyone, .linkState n .inFrame (s.receivers.get n).degraded⟩] := by
  rw [enteredInFrame_eq]

theorem rowsFollow_confirmFrame (hRows : ∀ r, (s.row r).qualification = .absent ↔ s.rowPresent r = false) :
    ∃ t, exec (.confirmFrameArrival n pos f elapsed) s = .next t ∧ RowsFollowTheirSources s t := by
  by_cases hAt : (s.receivers.get n).state = .confirm ∧ (s.receivers.get n).position = some pos
  · obtain ⟨hState, hPosition⟩ := hAt
    have hOutside : (s.receivers.get n).state ≠ .inFrame := by simp [hState]
    by_cases hGood : LinkFrame.aligned f = true ∧ LinkFrame.crcGood f = true
    · obtain ⟨hAligned, hCrc⟩ := hGood
      by_cases hCount : (s.receivers.get n).confirmCount < 2
      · exact ⟨_, confirmFrame_counted elapsed hState hPosition hAligned hCrc hCount,
          (rowsFollow_moved (w := s.advance elapsed) hRows rfl rfl rfl hOutside (by exact hOutside)).1⟩
      · refine ⟨_, confirmFrame_third elapsed hState hPosition hAligned hCrc (by omega),
          rowsFollow_told (by simp [enteredInFrame_eq]) ?_⟩
        obtain ⟨l, hl, hSource⟩ := raised_takeGoodFrame n f (enteredInFrame n elapsed s)
        rw [enteredInFrame_raised, List.append_assoc] at hl
        refine ⟨_, hl, fun ev hev => ?_⟩
        rcases List.mem_append.mp hev with hEntered | hTaken
        · rw [List.mem_singleton.mp hEntered]
          simp
        · exact hSource ev hTaken
    · refine ⟨_, confirmFrame_missed elapsed hState hPosition hGood,
        (rowsFollow_moved (w := s.advance elapsed) hRows rfl rfl rfl hOutside ?_).2⟩
      simp
  · exact ⟨s.advance elapsed, congrArg Host.Outcome.next (if_neg hAt),
      rowsFollow_untold hRows rfl (fun _ _ => rfl) ⟨[], by simp, by simp⟩⟩

theorem rowsFollow_lossOfSignal (hRows : ∀ r, (s.row r).qualification = .absent ↔ s.rowPresent r = false) :
    ∃ t, exec (.lossOfSignal n elapsed) s = .next t ∧ RowsFollowTheirSources s t := by
  by_cases hAt : (s.receivers.get n).state = .search ∨ (s.receivers.get n).state = .confirm
      ∨ (s.receivers.get n).state = .inFrame
  · exact ⟨_, lossOfSignal_taken elapsed hAt,
      rowsFollow_told (by simp) (raised_leaveTo n _ (s.advance elapsed))⟩
  · have hExec : exec (.lossOfSignal n elapsed) s = .next (s.advance elapsed) := by
      change execLossOfSignal n elapsed s = _
      rcases hState : (s.receivers.get n).state <;> simp [execLossOfSignal, hState] at hAt ⊢
    exact ⟨_, hExec, rowsFollow_untold hRows rfl (fun _ _ => rfl) ⟨[], by simp, by simp⟩⟩

theorem rowsFollow_wclkRisingEdge :
    ∃ t, exec (.wclkRisingEdge elapsed) s = .next t ∧ RowsFollowTheirSources s t :=
  ⟨_, rfl, rowsFollow_reportSources s _ [] rfl (by simp) (by simp)⟩

theorem rowsFollow_wclkMissingInterval (hRows : ∀ r, (s.row r).qualification = .absent ↔ s.rowPresent r = false) :
    ∃ t, exec .wclkMissingInterval s = .next t ∧ RowsFollowTheirSources s t := by
  refine ⟨_, exec_eq_next s .wclkMissingInterval, ?_⟩
  simp only [execState, exec, execWclkMissingInterval]
  split
  · exact rowsFollow_untold hRows rfl (fun _ _ => rfl) ⟨[], by simp, by simp⟩
  · exact rowsFollow_reportSources s _ [] rfl (by simp) (by simp)

end arrivals

/-! ### LINK_CONFIG (R3, R23) -/

/-- The transmit part of LINK_CONFIG comes after the rows, which do not look at it. -/
theorem rowsFollow_transmitters {s v : State} (h : RowsFollowTheirSources s v) (x : Tab 16 Transmitter)
    (y : Tab 16 (List TxNotice)) : RowsFollowTheirSources s { v with transmitters := x, txNotices := y } := by
  obtain ⟨hRows, own, hSource, hSame, hMoved⟩ := h
  have hWith (w : State) (hw : v = w) : ({ v with transmitters := x, txNotices := y } : State)
      = { w with transmitters := x, txNotices := y } := by rw [hw]
  refine ⟨hRows, own, hSource, fun hTable => ?_, fun hTable => ?_⟩
  · have hv := hWith _ (hSame hTable)
    exact hv
  · have hv := (hWith _ (hMoved hTable)).trans (recompute_of_transmitters _ x y).symm
    exact hv

theorem rowsFollow_configReceiver {s : State} (hRows : ∀ r, (s.row r).qualification = .absent ↔ s.rowPresent r = false)
    (p : Port) (n : Link) (on : Bool) : RowsFollowTheirSources s ((leased p s).configReceiver n on) := by
  have hUntold : RowsFollowTheirSources s (leased p s) :=
    rowsFollow_untold hRows (by simp) (fun n g => by simp [State.linkPresent]) ⟨[], by simp, by simp⟩
  unfold State.configReceiver
  split
  · next hState =>
    rw [leased_receivers] at hState
    exact (rowsFollow_moved hRows (leased_selector p s) (leased_receivers p s) (leased_raised p s) (by simp [hState])
      (by simp)).2
  · exact hUntold
  · exact hUntold
  · refine rowsFollow_told (by simp) ?_
    obtain ⟨l, hl, hSource⟩ := raised_leaveTo n Receiver.disable (leased p s)
    exact ⟨l, by rw [hl, leased_raised], hSource⟩

/-! ### Timers (R41, R45, R50) -/

/-- Settles O19: the two timers by their own rows, and every report of a source by the rows' rule. -/
theorem selectorTimersRunOut : Obligations.SelectorTimersRunOut := by
  refine ⟨fun s r deadline => ⟨fun hWaiting hTimer => ?restore, fun hState hTimer => ?holdover⟩,
    fun s n pos f elapsed hRows => ⟨fun c hc => ?reports, fun p tag rx tx hReady hRight => ?config⟩⟩
  case restore =>
    change execRestoreTimerExpiry r s = _
    simp only [execRestoreTimerExpiry, State.row, hWaiting, hTimer]
    rfl
  case holdover =>
    change execHoldoverTimerExpiry s = _
    simp only [execHoldoverTimerExpiry, hState, hTimer]
    rfl
  case reports =>
    rcases hc with rfl | rfl | rfl | rfl | rfl
    · exact rowsFollow_frameArrival hRows
    · exact rowsFollow_confirmFrame hRows
    · exact rowsFollow_lossOfSignal hRows
    · exact rowsFollow_wclkRisingEdge
    · exact rowsFollow_wclkMissingInterval hRows
  case config =>
    refine ⟨((leased p s).configReceiver n rx).configTransmitter n tx,
      exec_of_handle_right (c := .linkConfig) hReady hRight rfl ?_, ?_⟩
    · simp only [Cmd.handle, linkConfigHandler, readLink_numByte, readOnOff_flagByte]
      rfl
    · rw [State.configTransmitter_frame]
      exact rowsFollow_transmitters (rowsFollow_configReceiver hRows p n rx) _ _

end Sys2Proof.Machine
end

section
/-! What one block takes from another: session-end notices (R59, R125, R150, R186) and raised events (R180 to R183). -/

namespace Sys2Proof.Machine

/-! ### A request whose session has ended (R54, R59) -/

/-- The slot's content with another request in it. -/
abbrev withSlot (q : Option Request) (s : State) : State := { s with selector := { s.selector with request := q } }

/-- A move looks at the row the selector is on, not at the slot. -/
theorem moveTo_withSlot (s : State) (k : Option RowIx) (q : Option Request) :
    (withSlot q s).moveTo k = withSlot q (s.moveTo k) := by
  rcases hRow : s.selector.state.row with _ | r <;> rcases k with _ | k
  · rw [moveTo_none_of_no_row hRow, moveTo_none_of_no_row (s := withSlot q s) hRow]
  · rw [moveTo_other (s := s) (by rw [hRow]; simp), moveTo_other (s := withSlot q s) (by rw [hRow]; simp)]
    rfl
  · rw [moveTo_none_of_row hRow, moveTo_none_of_row (s := withSlot q s) hRow]
    rfl
  · by_cases hSame : r = k
    · subst hSame
      rw [moveTo_current hRow, moveTo_current (s := withSlot q s) hRow]
    · have hOther : s.selector.state.row ≠ some k := by simp [hRow, hSame]
      rw [moveTo_other hOther, moveTo_other (s := withSlot q s) hOther]
      rfl

theorem recompute_of_not_standing {s : State} (h : s.standing = none) : s.recompute = s.moveTo s.ownTarget := by
  rw [State.recompute, withdrawUnqualified_of_not_standing h, target_of_not_standing h]

/-- A request that stands no more acts as an empty slot, and stays in it. -/
theorem recompute_of_ended {s : State} {q : Request} (hSlot : s.selector.request = some q) (hEnded : ¬ stands s q) :
    s.recompute = withSlot (some q) (withSlot none s).recompute := by
  have hKept : withSlot (some q) (withSlot none s) = s := by
    rw [withSlot, withSlot, ← hSlot]
  rw [recompute_of_not_standing (standing_of_ended hSlot hEnded),
    recompute_of_not_standing (s := withSlot none s) (standing_of_none rfl), ← moveTo_withSlot, hKept]
  rfl

/-! ### Session-end notices -/

section notices

variable {p : Port} {n : SessionEnd} {pre post : List SessionEnd}

theorem takeFirst_notice (hPort : n.port = p) (hFirst : ∀ x ∈ pre, x.port ≠ p) :
    takeFirst (fun n => n.port == p) (pre ++ n :: post) = some (n, pre ++ post) :=
  takeFirst_append _ pre post n (by simp [hPort]) (by simpa using hFirst)

/-- The withdrawal of an ended session's request is told to the other ports alone (R59, R183). -/
theorem hiddenFrom_dropRequest (p : Port) {u : State} {q : Request} (hSlot : u.selector.request = some q)
    (why : DropReason) : (u.hiddenFrom p fun v => v.dropRequest why) = { u with
      selector := { u.selector with request := none }
      raised := u.raised
        ++ [RaisedEvent.bar p ⟨.selector, u.everyone, .refRequestDropped q.kind q.row q.owner why⟩] } := by
  have hDropped := dropRequest_of_some { u with raised := [] } q why hSlot
  simp only [State.hiddenFrom, hDropped]
  rfl

theorem keepEntry_eq_filter (number : SessionNo) :
    keepEntry number = fun e => e.filter fun x => x.session ≠ number := by
  funext e
  rcases e with _ | x
  · rfl
  · by_cases h : x.session = number <;> simp [keepEntry, Option.filter, h]

/-- Settles O21: each block's oldest notice of the port, by `takeFirst_notice`. -/
theorem sessionEndNoticesClearTheEndedSession : Obligations.SessionEndNoticesClearTheEndedSession := by
  refine ⟨fun s q hSlot hEnded => recompute_of_ended hSlot hEnded, fun s p n pre post hPort hFirst =>
    ⟨fun hNotices => ?chm, fun hNotices => ⟨fun q hSlot hOwner hSession => ?rslOwn, fun hOther => ?rslOther⟩,
      fun hNotices => ?msu, fun hNotices => ?evu⟩⟩
  case chm =>
    change execChmSessionEndNotice p s = _
    simp only [execChmSessionEndNotice, hNotices, takeFirst_notice hPort hFirst]
    rfl
  case rslOwn =>
    refine ⟨?_, fun x => receives_bar p x _ _ rfl⟩
    change execRslSessionEndNotice p s = _
    simp only [execRslSessionEndNotice, hNotices, takeFirst_notice hPort hFirst, hSlot, hOwner, hSession, and_self,
      if_true]
    subst hOwner
    exact congrArg (fun u : State => Host.Outcome.next u.recompute) 
      (hiddenFrom_dropRequest _ (u := { s with rslNotices := pre ++ post }) hSlot _)
  case rslOther =>
    change execRslSessionEndNotice p s = _
    simp only [execRslSessionEndNotice, hNotices, takeFirst_notice hPort hFirst]
    rcases hSlot : s.selector.request with _ | q
    · rfl
    · simp only [if_neg (hOther q hSlot)]
  case msu =>
    change execMsuSessionEndNotice p s = _
    simp only [execMsuSessionEndNotice, hNotices, takeFirst_notice hPort hFirst, keepEntry_eq_filter]
    rfl
  case evu =>
    change execEvuSessionEndNotice p s = _
    simp only [execEvuSessionEndNotice, hNotices, takeFirst_notice hPort hFirst]
    rfl

end notices

/-! ### The ports that receive an event (R183) -/

section receives

variable {s : State} {p : Port}

theorem receives_closed (h : (s.sessions.get p).isOpen = false) (ev : RaisedEvent) : receives s ev p = false := by
  simp [receives, h]

theorem receives_only (h : (s.sessions.get p).isOpen = true) (b : EventSource) (q : Port) (number : SessionNo)
    (d : EventData) : receives s ⟨b, .only q number, d⟩ p = true ↔ q = p ∧ number = (s.sessions.get p).number := by
  simp [receives, h]

theorem receives_all (h : (s.sessions.get p).isOpen = true) (b : EventSource) (barred : List Port) (d : EventData) :
    receives s ⟨b, .all barred, d⟩ p = (!barred.contains p && (s.sessions.get p).mask.admits p d) := by
  simp [receives, h]

end receives

/-! ### A queue that takes a copy (R180, R181) -/

section queue

variable {number : SessionNo} {frame : FrameNo} {data : EventData} {q : List EventRecord}

theorem queueCopy_lost (h : ∃ r ∈ currentRecords number q, r.isLost = true) :
    queueCopy number frame data q = (currentRecords number q).map EventRecord.countLost := by
  rw [queueCopy, if_pos (List.any_eq_true.mpr h)]

theorem not_any_lost (h : ∀ r ∈ currentRecords number q, r.isLost = false) :
    ¬ (currentRecords number q).any EventRecord.isLost = true := by
  simpa using h

theorem queueCopy_room (h : ∀ r ∈ currentRecords number q, r.isLost = false) (hRoom : (currentRecords number q).length < 31) :
    queueCopy number frame data q = currentRecords number q ++ [⟨data, frame, number⟩] := by
  rw [queueCopy, if_neg (not_any_lost h), if_pos (show _ < Config.eventRoom from hRoom)]

theorem queueCopy_full (h : ∀ r ∈ currentRecords number q, r.isLost = false) (hFull : 31 ≤ (currentRecords number q).length) :
    queueCopy number frame data q = currentRecords number q ++ [⟨.eventsLost 1, frame, number⟩] := by
  rw [queueCopy, if_neg (not_any_lost h), if_neg (show ¬ _ < Config.eventRoom from Nat.not_lt.mpr hFull)]

end queue

/-- Settles O23: who receives, by the audience and the mask; then `queueCopy` at each receiving port. -/
theorem raisedEventIsQueuedForItsPorts : Obligations.RaisedEventIsQueuedForItsPorts := by
  refine ⟨fun s p b => ⟨fun hClosed a d => receives_closed hClosed _, fun hOpen => ⟨fun q number d =>
    receives_only hOpen b q number d, fun barred => ⟨fun hBarred d => ?barred, fun hHeard => ?heard⟩⟩⟩,
    fun s ev pre post hRaised hFirst => ?queued⟩
  case barred => simp [receives_all hOpen, hBarred]
  case heard =>
    refine ⟨fun k n => ?_, fun n st g => ?_, fun n k => ?_, fun st r y => ?_, fun k r o y => ?_⟩
    all_goals rw [receives_all hOpen]
    · simp [hHeard, EventMask.admits, eq_comm (a := n)]
    all_goals simp [hHeard, EventMask.admits]
  case queued =>
    have hTaken : takeFirst (fun e : RaisedEvent => e.source == ev.source) s.raised = some (ev, pre ++ post) := by
      rw [hRaised]
      exact takeFirst_append _ pre post ev (by simp) (by simpa using hFirst)
    have hExec : exec (.raisedEventQueuing ev.source) s
        = .next (State.queueRaised ev { s with raised := pre ++ post }) := by
      change execRaisedEventQueuing ev.source s = _
      simp only [execRaisedEventQueuing, hTaken]
    refine ⟨_, hExec, rfl, fun p => ?_, rfl⟩
    have hEvents : (State.queueRaised ev { s with raised := pre ++ post }).events.get p
        = if receives s ev p then queueCopy (s.sessions.get p).number s.timing.frameCounter ev.data (s.events.get p)
          else s.events.get p := Tab.get_tabulate _ _
    have hPorts : (State.queueRaised ev { s with raised := pre ++ post }).ports.get p
        = if receives s ev p then (s.ports.get p).loseEvent
            (headRemoved (fun r => r.session == (s.sessions.get p).number) (s.events.get p))
          else s.ports.get p := Tab.get_tabulate _ _
    intro number kept
    refine ⟨fun hNot => ?_, fun hReceives => ?_, fun hReceives hLost => ?_, fun hReceives hNone hRoom => ?_,
      fun hReceives hNone hFull => ?_⟩
    · rw [hEvents, hPorts, hNot]
      exact ⟨rfl, rfl⟩
    · rw [hPorts, if_pos hReceives]
    · rw [hEvents, if_pos hReceives]
      exact queueCopy_lost hLost
    · rw [hEvents, if_pos hReceives]
      exact queueCopy_room hNone hRoom
    · rw [hEvents, if_pos hReceives]
      exact queueCopy_full hNone hFull

end Sys2Proof.Machine
end

section
/-! A control port's transaction (R153 to R174): the item a fall chooses, what a rise delivers, the command its bytes
carry, and the commands held, dropped and refused. -/

namespace Sys2Proof.Machine

/-! ### The fall of chip select (R160, R185) -/

theorem sdo_of_no_transaction {s : State} {p : Port} (h : (s.ports.get p).transaction = none) (clocks k : Nat) :
    s.sdo p clocks k = none := by
  simp only [State.sdo, h]

/-- In the whole bytes of a transaction SDO carries the bytes fixed at its fall (R153, R156). -/
theorem sdo_wholeByte {s : State} {p : Port} {t : Transaction} {clocks k : Nat}
    (h : (s.ports.get p).transaction = some t) (hWhole : k / 8 < clocks / 8) :
    s.sdo p clocks k = some ((t.bytes.getD (k / 8) 0).getLsbD (7 - k % 8)) := by
  simp only [State.sdo, h, if_pos hWhole]
  rfl

theorem attentionLow_iff (s : State) (p : Port) :
    attentionLow s p = true ↔ (s.ports.get p).responses ≠ [] ∨ s.events.get p ≠ [] := by
  simp [attentionLow, ← List.isEmpty_eq_false_iff]

theorem chipSelectFall_begins {s : State} {p : Port} (elapsed : Time) (h : (s.ports.get p).transaction = none) :
    exec (.chipSelectFall p elapsed) s = .next ((s.advance elapsed).beginTransaction p) := by
  change execChipSelectFall p elapsed s = _
  simp only [execChipSelectFall, State.advance_ports, h]

/-- A response waiting is chosen before any event, and no event is looked at. -/
theorem beginTransaction_response {s : State} {p : Port} {r : Response} {rest : List Response}
    (h : (s.ports.get p).responses = r :: rest) :
    s.beginTransaction p = s.onPort p fun c => { c with
      transaction := some ⟨.response r, (OutItem.response r).frame, false, Inbound.empty⟩ } := by
  simp [State.beginTransaction, State.chosenItem, h]

theorem beginTransaction_event {s : State} {p : Port} {e : EventRecord} {rest : List EventRecord}
    (h : (s.ports.get p).responses = []) (hFresh : s.freshEvents p = e :: rest) :
    s.beginTransaction p = { s with events := s.events.put p (e :: rest) }.onPort p fun c => { c with
      transaction := some ⟨.event e, (OutItem.event e).frame, false, Inbound.empty⟩ } := by
  simp [State.beginTransaction, State.chosenItem, h, hFresh]

theorem beginTransaction_idle {s : State} {p : Port} (h : (s.ports.get p).responses = [])
    (hFresh : s.freshEvents p = []) :
    s.beginTransaction p = { s with events := s.events.put p [] }.onPort p fun c => { c with
      transaction := some ⟨.idle, OutItem.idle.frame, false, Inbound.empty⟩ } := by
  simp [State.beginTransaction, State.chosenItem, h, hFresh]

theorem freshEvents_advance (s : State) (elapsed : Time) (p : Port) :
    (s.advance elapsed).freshEvents p = s.freshEvents p := rfl

/-- Settles O26: the fall begins a transaction, one lemma an item it can choose. -/
theorem chipSelectFallChoosesTheItem : Obligations.ChipSelectFallChoosesTheItem := by
  refine ⟨fun s p => ⟨attentionLow_iff s p, fun h => sdo_of_no_transaction h, fun t clocks k h hWhole =>
    sdo_wholeByte h hWhole⟩, ?fall⟩
  case fall =>
    rintro s p c elapsed rfl hNone u fresh started
    have hFresh : fresh = (s.advance elapsed).freshEvents p := rfl
    refine ⟨fun r rest hResponses => ?response, fun hEmpty => ?event⟩
    case response =>
      rw [chipSelectFall_begins elapsed hNone, beginTransaction_response (s := s.advance elapsed) hResponses]
      rfl
    case event =>
      rw [chipSelectFall_begins elapsed hNone]
      rcases hChoice : fresh with _ | ⟨e, rest⟩
      · rw [beginTransaction_idle (s := s.advance elapsed) hEmpty (hFresh ▸ hChoice)]
        rfl
      · rw [beginTransaction_event (s := s.advance elapsed) hEmpty (hFresh ▸ hChoice)]
        rfl

/-! ### Bits clocked in (R153) -/

theorem byteOfBits_bit (a b c d e f g h : Bool) {j : Nat} (hj : j < 8) :
    (byteOfBits [a, b, c, d, e, f, g, h]).getLsbD (7 - j) = [a, b, c, d, e, f, g, h].getD j false := by
  interval_cases j <;> revert a b c d e f g h <;> decide +kernel

/-- Every eight bits make one byte; the bits after the last whole byte are discarded. -/
theorem wholeBytes_length (sdi : List Bool) : (wholeBytes sdi).length = sdi.length / 8 := by
  induction sdi using wholeBytes.induct with
  | case1 a b c d e f g h rest ih =>
    simp only [wholeBytes, List.length_cons, ih]
    omega
  | case2 bits hShort =>
    rcases bits with _ | ⟨a, _ | ⟨b, _ | ⟨c, _ | ⟨d, _ | ⟨e, _ | ⟨f, _ | ⟨g, _ | ⟨h, rest⟩⟩⟩⟩⟩⟩⟩⟩
    iterate 8 · simp [wholeBytes]
    exact absurd rfl (hShort a b c d e f g h rest)

/-- Bit `j` of whole byte `k`, the most significant first, is the bit clocked in at `8 * k + j`. -/
theorem wholeBytes_bit (sdi : List Bool) {k j : Nat} (hk : k < sdi.length / 8) (hj : j < 8) :
    ((wholeBytes sdi).getD k 0).getLsbD (7 - j) = sdi.getD (8 * k + j) false := by
  induction sdi using wholeBytes.induct generalizing k with
  | case1 a b c d e f g h rest ih =>
    rcases k with _ | k
    · have hIn : j < [a, b, c, d, e, f, g, h].length := hj
      have hBits := byteOfBits_bit a b c d e f g h hj
      rw [wholeBytes, List.getD_cons_zero, hBits, Nat.mul_zero, Nat.zero_add,
        ← List.getD_append [a, b, c, d, e, f, g, h] rest false j hIn]
      rfl
    · have hRest : k < rest.length / 8 := by
        simp only [List.length_cons] at hk
        omega
      have hPast : [a, b, c, d, e, f, g, h].length ≤ 8 * (k + 1) + j := by
        simp only [List.length_cons, List.length_nil]
        omega
      have hShift : 8 * (k + 1) + j - [a, b, c, d, e, f, g, h].length = 8 * k + j := by
        simp only [List.length_cons, List.length_nil]
        omega
      have hAt := List.getD_append_right [a, b, c, d, e, f, g, h] rest false _ hPast
      rw [hShift] at hAt
      rw [wholeBytes, List.getD_cons_succ, ih hRest, ← hAt]
      rfl
  | case2 bits hShort =>
    have hNone : (wholeBytes bits).length = 0 := by
      rw [wholeBytes, List.length_nil]
      exact hShort
    rw [wholeBytes_length] at hNone
    omega

/-! ### Delivery settled at the rise (R161, R162, R164, R185) -/

theorem delivered_iff (t : Transaction) (count : Nat) :
    t.delivered count = true ↔ t.bytes.length ≤ count ∧ t.removed = false := by
  simp [Transaction.delivered]

section settle

variable {s : State} {p : Port} {t : Transaction} {count : Nat}

theorem settle_undelivered (h : ¬ (t.delivered count = true)) : s.settle p t count = s := by
  rw [State.settle, if_neg h]

theorem settle_idle (h : t.item = .idle) : s.settle p t count = s := by
  simp only [State.settle, h, ite_self]

theorem settle_response {r : Response} (h : t.delivered count = true) (hItem : t.item = .response r) :
    s.settle p t count = s.onPort p fun c => { c with responses := c.responses.tail } := by
  simp only [State.settle, h, hItem, if_true]

theorem settle_event {e : EventRecord} (h : t.delivered count = true) (hItem : t.item = .event e)
    (hOpen : s.openWith p e.session = true) :
    s.settle p t count = { s with events := s.events.modify p (deliverHead e s.timing.frameCounter) } := by
  simp only [State.settle, h, hItem, hOpen, if_true]
  rfl

theorem settle_staleEvent {e : EventRecord} (hItem : t.item = .event e)
    (hStale : ¬ (s.openWith p e.session = true)) : s.settle p t count = s := by
  simp only [State.settle, hItem, hStale, Bool.false_eq_true, if_false, ite_self]

end settle

/-- A rise at which nothing is delivered only ends the transaction. -/
theorem riseSettled_of_kept {s : State} {p : Port} {t : Transaction} {count : Nat} {elapsed : Time}
    (h : (s.advance elapsed).settle p t count = s.advance elapsed) :
    riseSettled p t count elapsed s = { s with
      now := s.now + elapsed
      ports := s.ports.put p { s.ports.get p with transaction := none } } := by
  rw [riseSettled, h]
  rfl

/-- Settles O27: bytes are eights of bits; a rise without a command is delivery settled, one lemma an item. -/
theorem chipSelectRiseSettlesDelivery : Obligations.ChipSelectRiseSettlesDelivery := by
  refine ⟨fun sdi => ⟨wholeBytes_length sdi, fun k j => wholeBytes_bit sdi⟩, ?rise⟩
  case rise =>
    rintro s p c t sdi span elapsed rfl hTransaction hInbound hNone u whole
    have hRise := chipSelectRise_noCommand (sdi := sdi) span elapsed hTransaction hInbound hNone
    have hWhole := delivered_iff t (wholeBytes sdi).length
    rw [hRise]
    refine ⟨fun hKept => ?kept, fun r hSent hItem => ?response, fun e hSent hItem hStale => ?stale,
      fun e h rest hSent hItem hOpen hNumber hHead => ?event⟩
    case kept =>
      rw [riseSettled_of_kept]
      rcases hKept with hNot | hIdle
      · exact settle_undelivered (mt hWhole.mp hNot)
      · exact settle_idle hIdle
    case response =>
      rw [riseSettled, settle_response (hWhole.mpr hSent) hItem, State.onPort, State.onPort, Tab.modify, Tab.modify,
        Tab.put_put]
      simp only [Tab.get_put, if_true]
      rfl
    case stale =>
      rw [riseSettled_of_kept]
      refine settle_staleEvent hItem fun hWith => hStale ?_
      obtain ⟨hOpen, hNumber⟩ := (openWith_iff s p e.session).mp hWith
      exact ⟨hOpen, hNumber.symm⟩
    case event =>
      have hWith : (s.advance elapsed).openWith p e.session = true :=
        (openWith_iff s p e.session).mpr ⟨hOpen, hNumber.symm⟩
      rw [riseSettled, settle_event (hWhole.mpr hSent) hItem hWith, Tab.modify, State.advance_events, hHead]
      rfl

/-! ### A command frame clocked in (R155, R165 to R168) -/

/-- Six bytes that begin with a command frame are that command, whatever follows it. -/
theorem classify_ofBytes {bs extra ps : List Byte} {tag code : Byte} (hFrame : bs = commandFrame tag code ps ++ extra)
    (hShort : ps.length ≤ 60) (hSix : 6 ≤ bs.length) :
    (Inbound.ofBytes bs).classify = .good tag code ps ∧ (Inbound.ofBytes bs).noCommand = false := by
  have hCount : (Inbound.ofBytes bs).count = 5 + ps.length + extra.length := by
    rw [count_ofBytes, hFrame, List.length_append, commandFrame_length]
  refine classify_commandFrame tag code ps extra _ hShort ?kept hCount ?nonzero (by rw [count_ofBytes]; exact hSix)
  case kept =>
    rw [hFrame]
    rfl
  case nonzero =>
    rw [hFrame]
    simp [Inbound.ofBytes, Inbound.empty, Inbound.add, commandFrame]

theorem takeInbound_good {i : Inbound} {tag code : Byte} {ps : List Byte} (h : i.classify = .good tag code ps)
    (p : Port) (span : ResetSpan) (s : State) : s.takeInbound p i span = s.takeFrame p tag code ps span := by
  simp only [State.takeInbound, h]

theorem blocked_eq_false {s : State} {p : Port} (hReset : s.resetToReach = []) (hHeld : (s.ports.get p).held = none) :
    s.blocked p = false := by
  simp [State.blocked, hReset, hHeld]

theorem commandArrives_free {s : State} {p : Port} (h : s.blocked p = false) (tag : Byte) (c : Cmd) (ps : List Byte)
    (span : ResetSpan) : s.commandArrives p tag c ps span = s.takeFrame p tag c.code ps span := by
  simp only [State.commandArrives, h, Bool.false_eq_true, if_false]

/-- A rise that carries a frame takes it on the state in which its delivery is settled. -/
theorem chipSelectRise_frame {s : State} {p : Port} {t : Transaction} {tag code : Byte} {ps extra : List Byte}
    {sdi : List Bool} (elapsed : Time) (hTransaction : (s.ports.get p).transaction = some t)
    (hInbound : t.inbound = Inbound.empty) (hFree : s.blocked p = false) (hShort : ps.length ≤ 60)
    (hFrame : wholeBytes sdi = commandFrame tag code ps ++ extra) (hSix : 6 ≤ (wholeBytes sdi).length) :
    exec (.chipSelectRise p sdi .whole elapsed) s
      = .next ((riseSettled p t (wholeBytes sdi).length elapsed s).takeFrame p tag code ps .whole) := by
  obtain ⟨hGood, hCommand⟩ := classify_ofBytes hFrame hShort hSix
  rw [chipSelectRise_taken .whole elapsed hTransaction hInbound hCommand hFree, takeInbound_good hGood]

/-- Settles O28: the rise and the command's own row take the same frame on the state the low bits leave. -/
theorem goodFrameAtTheRiseIsItsCommand : Obligations.GoodFrameAtTheRiseIsItsCommand := by
  intro s p t c tag ps extra sdi elapsed hTransaction hInbound hReset hHeld hShort hFrame hSix
  have hFree := blocked_eq_false hReset hHeld
  refine ⟨_, chipSelectRise_low .whole elapsed hTransaction hInbound, ?_⟩
  rw [chipSelectRise_frame elapsed hTransaction hInbound hFree hShort hFrame hSix, exec_instr,
    commandArrives_free ((blocked_riseSettled p t _ elapsed s).trans hFree)]

/-! ### A command dropped or held (R167, R174) -/

theorem takeFrame_full {s : State} {p : Port} (h : 4 ≤ (s.ports.get p).responses.length) (tag code : Byte)
    (ps : List Byte) (span : ResetSpan) : s.takeFrame p tag code ps span = s.onPort p PortState.drop := by
  have hFull : (s.ports.get p).full = true := decide_eq_true h
  simp only [State.takeFrame, hFull, if_true]

theorem hold_none {c : PortState} (h : c.held = none) (i : Inbound) : c.hold i = { c with held := some i } := by
  simp only [PortState.hold, h]

theorem hold_some {c : PortState} {j : Inbound} (h : c.held = some j) (i : Inbound) : c.hold i = c.drop := by
  simp only [PortState.hold, h]

/-- The bytes of a command that arrives are its frame and one $00 (log 4). -/
theorem ofBytes_commandFrame (tag code : Byte) (ps : List Byte) :
    Inbound.ofBytes (commandFrame tag code ps ++ [0])
      = ⟨(commandFrame tag code ps ++ [0]).take 65, ps.length + 6, false⟩ := by
  have hCount : (commandFrame tag code ps ++ [0]).length = ps.length + 6 := by
    rw [List.length_append, commandFrame_length, List.length_singleton]
    omega
  have hNonzero : (commandFrame tag code ps ++ [0]).all (fun b => b == 0) = false := by simp [commandFrame]
  rw [Inbound.ofBytes, Inbound.add, hCount, hNonzero]
  simp only [Inbound.empty, List.nil_append, Nat.zero_add, Bool.true_and, Config.inboundKept]

theorem commandArrives_blocked {s : State} {p : Port} (h : s.blocked p = true) (tag : Byte) (c : Cmd) (ps : List Byte)
    (span : ResetSpan) :
    s.commandArrives p tag c ps span
      = s.onPort p (PortState.hold (Inbound.ofBytes (commandFrame tag c.code ps ++ [0]))) := by
  simp only [State.commandArrives, h, if_true]

theorem heldFrameTaken_eq {s : State} {p : Port} {i : Inbound} (hReset : s.resetToReach = [])
    (hHeld : (s.ports.get p).held = some i) :
    exec (.heldFrameTaken p) s
      = .next ((s.onPort p fun c => { c with held := none }).takeInbound p i .whole) := by
  change execHeldFrameTaken p s = _
  simp only [execHeldFrameTaken, hReset, hHeld]

/-- Settles O30: a frame taken meets the full queue; a port not ready holds the frame, or drops it; the held frame is
classified as the command it carries. -/
theorem commandsNotTakenAreDroppedOrHeld : Obligations.CommandsNotTakenAreDroppedOrHeld := by
  refine ⟨fun s p c tag ps hReset hHeld hFull => ?full, fun s p c tag ps => ⟨fun hHeld hReset _ => ?hold,
    fun i hHeld => ?drop⟩, fun s p c tag ps hReset hShort hHeld => ?take⟩
  case full =>
    rw [exec_instr, commandArrives_free (blocked_eq_false hReset hHeld), takeFrame_full hFull]
    rfl
  case hold =>
    have hBlocked : s.blocked p = true := by simp [State.blocked, hReset]
    rw [exec_instr, commandArrives_blocked hBlocked, State.onPort, Tab.modify, hold_none hHeld, ofBytes_commandFrame]
    rfl
  case drop =>
    have hBlocked : s.blocked p = true := by simp [State.blocked, hHeld]
    rw [exec_instr, commandArrives_blocked hBlocked, State.onPort, Tab.modify, hold_some hHeld]
    rfl
  case take =>
    rw [← ofBytes_commandFrame] at hHeld
    have hSix : 6 ≤ (commandFrame tag c.code ps ++ [0]).length := by
      rw [List.length_append, commandFrame_length, List.length_singleton]
      omega
    obtain ⟨hGood, -⟩ := classify_ofBytes rfl hShort hSix
    have hFree : (s.onPort p fun x => { x with held := none }).blocked p = false :=
      blocked_eq_false hReset (by simp)
    refine ⟨_, heldFrameTaken_eq hReset hHeld, ?_⟩
    rw [takeInbound_good hGood, ← commandArrives_free hFree, exec_instr]
    rfl

/-! ### The catalogue and gating (R169, R170, R173) -/

theorem ofCode_eq_none {code : Byte} (h : ∀ c ∈ Cmd.all, c.code ≠ code) : Cmd.ofCode code = none :=
  List.find?_eq_none.mpr fun c hMem => by simpa using h c hMem

/-- A frame whose code the catalogue does not have renews the lease and is answered BAD_CODE. -/
theorem takeFrame_badCode {s : State} {p : Port} {code : Byte} (hRoom : (s.ports.get p).responses.length < 4)
    (hCode : Cmd.ofCode code = none) (tag : Byte) (ps : List Byte) (span : ResetSpan) :
    s.takeFrame p tag code ps span = answering p tag ⟨.badCode, [code]⟩ (leased p s) := by
  have hFull : (s.ports.get p).full = false := decide_eq_false (Nat.not_le.mpr hRoom)
  simp only [State.takeFrame, hFull, State.gate, hCode, Bool.false_eq_true, if_false]
  rfl

/-- The responses waiting grow in no way when delivery is settled. -/
theorem responses_riseSettled_le (p : Port) (t : Transaction) (count : Nat) (elapsed : Time) (s : State) :
    ((riseSettled p t count elapsed s).ports.get p).responses.length ≤ (s.ports.get p).responses.length := by
  simp only [riseSettled, State.onPort_ports, Tab.get_modify, if_true]
  rw [State.settle]
  split
  · split
    · simp
    · simp
    · split <;> simp
  · simp

/-- Settles O31: the catalogue is evaluated; gating refuses in its order, one law a check; a rise of a code outside the
catalogue takes the frame, and gating finds no command. -/
theorem catalogueAndGatingRefuseInOrder : Obligations.CatalogueAndGatingRefuseInOrder := by
  refine ⟨⟨by decide +kernel, fun c => by cases c <;> decide⟩, fun s p c tag ps hReady =>
    ⟨command_noSession c p tag ps s hReady, command_denied c p tag ps s hReady,
      command_badLength c p tag ps s hReady⟩, ?badCode⟩
  case badCode =>
    intro s p t tag code ps extra sdi elapsed hTransaction hInbound hReset hHeld hRoom hShort hCode hFrame hSix
    have hFree := blocked_eq_false hReset hHeld
    have hStill := (responses_riseSettled_le p t (wholeBytes sdi).length elapsed s).trans_lt hRoom
    refine ⟨_, chipSelectRise_low .whole elapsed hTransaction hInbound, ?_⟩
    rw [chipSelectRise_frame elapsed hTransaction hInbound hFree hShort hFrame hSix,
      takeFrame_badCode hStill (ofCode_eq_none hCode)]

end Sys2Proof.Machine
end

section
/-! OPEN, CLOSE, LEASE_EXPIRY and CLAIM (R84 to R95). -/

namespace Sys2Proof.Machine

/-! ### OPEN (R84, R85) -/

theorem nat16_toNat (x : BitVec 16) : nat16 x.toNat = bytes16 x := by
  rw [nat16, BitVec.ofNat_toNat, BitVec.setWidth_eq]

section openHandler

variable {s : State} {p : Port} {lease : BitVec 16}

theorem openHandler_closed (hClosed : ¬ HasSession p s) (hLow : 100 ≤ lease.toNat) (hHigh : lease.toNat ≤ 60000)
    (replace : Bool) : openHandler p (bytes16 lease ++ [flagByte replace]) s = s.openRow p lease.toNat := by
  have hRange : ¬ (lease.toNat < 100 ∨ 60000 < lease.toNat) := by omega
  simp only [openHandler, bytes16, List.cons_append, List.nil_append, readOnOff_flagByte, word16_bytes16,
    if_neg hRange, State.isOpen, if_neg hClosed]

theorem openHandler_replace (hOpen : HasSession p s) (hLow : 100 ≤ lease.toNat) (hHigh : lease.toNat ≤ 60000) :
    openHandler p (bytes16 lease ++ [flagByte true]) s = (s.teardown p .replaced).openRow p lease.toNat := by
  have hRange : ¬ (lease.toNat < 100 ∨ 60000 < lease.toNat) := by omega
  simp only [openHandler, bytes16, List.cons_append, List.nil_append, readOnOff_flagByte, word16_bytes16,
    if_neg hRange, State.isOpen, if_pos hOpen, if_true]

theorem openHandler_alreadyOpen (hOpen : HasSession p s) (hLow : 100 ≤ lease.toNat) (hHigh : lease.toNat ≤ 60000) :
    openHandler p (bytes16 lease ++ [flagByte false]) s = (s, ⟨.alreadyOpen, [(s.sessions.get p).number]⟩) := by
  have hRange : ¬ (lease.toNat < 100 ∨ 60000 < lease.toNat) := by omega
  simp only [openHandler, bytes16, List.cons_append, List.nil_append, readOnOff_flagByte, word16_bytes16,
    if_neg hRange, State.isOpen, if_pos hOpen, Bool.false_eq_true, if_false]
  rfl

/-- A lease out of range or a flag above $01 is refused whatever the row (log 37). -/
theorem openHandler_refused {b : Byte} (h : ¬ (100 ≤ lease.toNat ∧ lease.toNat ≤ 60000) ∨ 1 < b.toNat) :
    openHandler p (bytes16 lease ++ [b]) s = (s, badArg) := by
  rcases hFlag : readOnOff b with _ | v
  · simp only [openHandler, bytes16, List.cons_append, List.nil_append, hFlag]
  · have hRange : lease.toNat < 100 ∨ 60000 < lease.toNat := by
      obtain hLease | hHigh := h
      · omega
      · rw [readOnOff_none b hHigh] at hFlag
        cases hFlag
    simp only [openHandler, bytes16, List.cons_append, List.nil_append, hFlag, word16_bytes16, if_pos hRange]

/-- A row opened answers with its new number, the end reason it had, the lease and the precedence. -/
theorem openRow_eq (s : State) (p : Port) (lease : BitVec 16) :
    s.openRow p lease.toNat = (opened p lease.toNat s, ok ([(s.sessions.get p).number + 1]
      ++ small (s.sessions.get p).endReason.code ++ bytes16 lease ++ small (s.sessions.get p).precedence)) := by
  refine Prod.ext (openRow_fst_eq_opened p _ s) ?_
  simp only [State.openRow, State.sessionNo, State.precedence, State.raise_sessions, State.onSession_sessions,
    Tab.get_modify, if_true, Session.opened, nat16_toNat]

end openHandler

theorem closeHandler_eq (p : Port) (s : State) :
    closeHandler p s = (tornDown p .closed .closed s, ok [(s.sessions.get p).number]) := by
  rw [closeHandler, teardown_eq_tornDown]
  rfl

theorem tornDown_row (p : Port) (why : EndReason) (kind : PeerKind) (s : State) :
    (tornDown p why kind s).sessions.get p
      = { s.sessions.get p with isOpen := false, endReason := why, lease := none } := by
  rw [tornDown, Tab.get_modify, if_pos rfl]

theorem leaseExpiry_eq {s : State} {p : Port} {deadline : Time} (hOpen : HasSession p s)
    (hLease : (s.sessions.get p).lease = some deadline) :
    exec (.leaseExpiry p) s = .next ((s.advanceTo deadline).teardown p .lapsed) := by
  change execLeaseExpiry p s = _
  simp only [execLeaseExpiry, State.isOpen, hOpen, hLease]

/-- Settles O33: OPEN's handler, one lemma a branch, on the leased state; a teardown is what the words of Safety.lean
say. -/
theorem sessionsOpenCloseAndLapse : Obligations.SessionsOpenCloseAndLapse := by
  refine ⟨?opening, fun s p tag deadline hOpen => ⟨fun hReady => ?closes, fun hLease => ?lapses⟩⟩
  case' opening =>
    intro s p tag lease replace hReady r torn
    refine ⟨fun hClosed hLow hHigh => ?opens, fun hOpen hLow hHigh hReplace => ?replaces,
      fun hOpen hLow hHigh hKeep => ?alreadyOpen, fun b hBad => ?refused⟩
  case opens =>
    refine exec_of_handle (c := .open_) hReady rfl rfl rfl ?_
    rw [leased_closed p s hClosed]
    exact (openHandler_closed hClosed hLow hHigh replace).trans (openRow_eq s p lease)
  case replaces =>
    subst hReplace
    have hLeased : HasSession p (leased p s) := (leased_isOpen p p s).trans hOpen
    refine exec_of_handle (c := .open_) hReady rfl rfl rfl ((openHandler_replace hLeased hLow hHigh).trans ?_)
    rw [openRow_eq, teardown_eq_tornDown, tornDown_row]
    simp only [leased_number, leased_precedence]
    rfl
  case alreadyOpen =>
    subst hKeep
    have hLeased : HasSession p (leased p s) := (leased_isOpen p p s).trans hOpen
    refine exec_of_handle (c := .open_) hReady rfl rfl rfl ((openHandler_alreadyOpen hLeased hLow hHigh).trans ?_)
    rw [leased_number]
  case refused => exact exec_of_handle (c := .open_) hReady rfl rfl rfl (openHandler_refused hBad)
  case closes =>
    refine exec_of_handle_session (c := .close) hReady hOpen rfl rfl ((closeHandler_eq p _).trans ?_)
    rw [leased_number]
    rfl
  case lapses =>
    rw [leaseExpiry_eq hOpen hLease, teardown_eq_tornDown]
    rfl

/-! ### The destinations a claim touches (R94, R95) -/

/-- The first element of a rising list that meets a test is the least that does. -/
theorem find?_eq_some_of_least {n : Nat} {f : Fin n → Bool} {d : Fin n} {l : List (Fin n)}
    (hRising : l.Pairwise (· < ·)) (hMem : d ∈ l) (hMeets : f d = true) (hLeast : ∀ e ∈ l, e < d → f e = false) :
    l.find? f = some d := by
  induction l with
  | nil => cases hMem
  | cons x xs ih =>
    obtain ⟨hFirst, hRest⟩ := List.pairwise_cons.mp hRising
    obtain rfl | hLater := List.mem_cons.mp hMem
    · exact List.find?_cons_of_pos hMeets
    · have hPassed : ¬ f x = true := by simp [hLeast x (List.mem_cons_self ..) (hFirst d hLater)]
      rw [List.find?_cons_of_neg hPassed]
      exact ih hRest hLater fun e hIn => hLeast e (List.mem_cons_of_mem _ hIn)

theorem destRange_rising (first last : Nat) : (destRange first last).Pairwise (· < ·) :=
  (List.pairwise_lt_finRange 256).filter _

theorem mem_destRange {first last d : Dest} : d ∈ destRange first.val last.val ↔ first ≤ d ∧ d ≤ last := by
  simp [destRange]

theorem otherOwner_eq_some {s : State} {p q : Port} {d : Dest} :
    otherOwner s p d = some q ↔ q ≠ p ∧ (s.claims.get d).map Owner.port = some q := by
  rcases hOwner : s.claims.get d with _ | w
  · simp [otherOwner, hOwner]
  · by_cases hSame : w.port = p
    · simp only [otherOwner, hOwner, hSame, if_true, Option.map_some, Option.some.injEq]
      grind
    · simp only [otherOwner, hOwner, hSame, if_false, Option.map_some, Option.some.injEq]
      grind

theorem isConflict_iff (s : State) (p : Port) (preempt : Bool) (d : Dest) :
    isConflict s p preempt d = true ↔ ∃ w, s.claims.get d = some w ∧ w.port ≠ p
      ∧ (preempt = true → (s.sessions.get p).precedence ≤ (s.sessions.get w.port).precedence) := by
  rcases hOwner : s.claims.get d with _ | w
  · simp [isConflict, otherOwner, hOwner]
  · by_cases hSame : w.port = p
    · simp [isConflict, otherOwner, hOwner, hSame]
    · cases preempt with
      | false => simp [isConflict, otherOwner, hOwner, hSame]
      | true =>
        simp only [isConflict, otherOwner, hOwner, hSame, if_false, State.precedence, Option.some.injEq, exists_eq_left',
          Bool.not_true, Bool.false_or, true_imp_iff, ne_eq, not_false_eq_true, true_and]
        exact (decide_eq_true_iff (p := (s.sessions.get p).precedence ≤ (s.sessions.get w.port).precedence))

theorem lowestConflict_none {s : State} {p : Port} {preempt : Bool} {first last : Dest}
    (h : ∀ d, first ≤ d → d ≤ last → isConflict s p preempt d = false) :
    lowestConflict s p preempt first.val last.val = none := by
  have hFind : (destRange first.val last.val).find? (isConflict s p preempt) = none := by
    refine List.find?_eq_none.mpr fun d hMem => ?_
    obtain ⟨hFrom, hTo⟩ := mem_destRange.mp hMem
    simp [h d hFrom hTo]
  simp only [lowestConflict, hFind]

theorem lowestConflict_some {s : State} {p : Port} {preempt : Bool} {first last d : Dest} {w : Owner}
    (hRange : first ≤ d ∧ d ≤ last) (hConflict : isConflict s p preempt d = true)
    (hLeast : ∀ e, first ≤ e → e ≤ last → e < d → isConflict s p preempt e = false)
    (hOwner : s.claims.get d = some w) (hOther : w.port ≠ p) :
    lowestConflict s p preempt first.val last.val = some (d, w.port) := by
  have hFind : (destRange first.val last.val).find? (isConflict s p preempt) = some d := by
    refine find?_eq_some_of_least (destRange_rising _ _) (mem_destRange.mpr hRange) hConflict fun e hMem hBelow => ?_
    obtain ⟨hFrom, hTo⟩ := mem_destRange.mp hMem
    exact hLeast e hFrom hTo hBelow
  have hTaken : otherOwner s p d = some w.port := otherOwner_eq_some.mpr ⟨hOther, by rw [hOwner]; rfl⟩
  simp only [lowestConflict, hFind, hTaken, Option.map_some]

/-- The Claim Table after a claim, entry by entry: what the port already owned keeps its session number (R94). -/
theorem claimed_get (s : State) (p : Port) (first last d : Dest) :
    (claimed s p first.val last.val).get d
      = if first ≤ d ∧ d ≤ last ∧ (s.claims.get d).map Owner.port ≠ some p
        then some ⟨p, (s.sessions.get p).number⟩ else s.claims.get d := by
  rw [claimed, Tab.get_tabulate]
  by_cases hRange : first.val ≤ d.val ∧ d.val ≤ last.val
  · have hFin : first ≤ d ∧ d ≤ last := hRange
    rcases hOwner : s.claims.get d with _ | w
    · simp [hRange, hFin, State.sessionNo]
    · by_cases hSame : w.port = p <;> simp [hRange, hFin, hSame, State.sessionNo]
  · have hFin : ¬ (first ≤ d ∧ d ≤ last ∧ (s.claims.get d).map Owner.port ≠ some p) :=
      fun h => hRange ⟨h.1, h.2.1⟩
    rw [if_neg hRange, if_neg hFin]

theorem lostBy_eq (s : State) (p q : Port) (first last : Dest) :
    lostBy s p q first.val last.val = ((List.finRange 256).filter fun d => first ≤ d ∧ d ≤ last).filter
      fun d => q ≠ p ∧ (s.claims.get d).map Owner.port = some q := by
  rw [lostBy, destRange_val]
  refine List.filter_congr fun d _ => ?_
  rw [beq_eq_decide]
  exact decide_eq_decide.mpr otherOwner_eq_some

theorem claimedCount_eq (s : State) (p : Port) (first last : Dest) :
    claimedCount s p first.val last.val = (((List.finRange 256).filter fun d => first ≤ d ∧ d ≤ last).filter
      fun d => (s.claims.get d).map Owner.port ≠ some p).length := by
  rw [claimedCount, destRange_val]
  refine congrArg List.length (List.filter_congr fun d _ => ?_)
  rw [bne, beq_eq_decide, ← decide_not]

theorem isSome_otherOwner (s : State) (p : Port) (d : Dest) :
    (otherOwner s p d).isSome = true ↔ ∃ w, s.claims.get d = some w ∧ w.port ≠ p := by
  rcases hOwner : s.claims.get d with _ | w
  · simp [otherOwner, hOwner]
  · by_cases hSame : w.port = p <;> simp [otherOwner, hOwner, hSame]

theorem takenCount_eq (s : State) (p : Port) (first last : Dest) :
    takenCount s p first.val last.val = (((List.finRange 256).filter fun d => first ≤ d ∧ d ≤ last).filter
      fun d => ∃ w, s.claims.get d = some w ∧ w.port ≠ p).length := by
  rw [takenCount, destRange_val]
  refine congrArg List.length (List.filter_congr fun d _ => Bool.eq_iff_iff.mpr ?_)
  rw [isSome_otherOwner, decide_eq_true_iff]

theorem claimedCount_leased (s : State) (p : Port) (first last : Nat) :
    claimedCount (leased p s) p first last = claimedCount s p first last := by
  simp only [claimedCount, leased_claims]

theorem takenCount_leased (s : State) (p : Port) (first last : Nat) :
    takenCount (leased p s) p first last = takenCount s p first last := by
  simp only [takenCount, otherOwner, leased_claims]

/-! ### CLAIM (R94, R95) -/

theorem claimHandler_refused (s : State) (p : Port) {a b m : Byte} (h : b < a ∨ 1 < m.toNat) :
    claimHandler p [a, b, m] s = (s, badArg) := by
  rcases hMode : readClaimMode m with _ | v
  · simp only [claimHandler, hMode]
  · have hReversed : b.toNat < a.toNat := by
      obtain hLess | hHigh := h
      · exact hLess
      · rw [readClaimMode, readOnOff_none m hHigh] at hMode
        cases hMode
    simp only [claimHandler, hMode, if_pos hReversed]

theorem claimHandler_free {s : State} {p : Port} {first last : Dest} {preempt : Bool} (h : first ≤ last)
    (hFree : lowestConflict s p preempt first.val last.val = none) :
    claimHandler p [numByte first, numByte last, flagByte preempt] s
      = ({ s with
            claims := claimed s p first.val last.val
            raised := s.raised ++ claimLostEvents s p first.val last.val },
          ok (nat16 (claimedCount s p first.val last.val) ++ nat16 (takenCount s p first.val last.val))) := by
  simp only [claimHandler, readClaimMode, readOnOff_flagByte, toNat_numByte_dest, if_neg (Nat.not_lt.mpr h), hFree]

theorem claimHandler_heldBy {s : State} {p q : Port} {first last d : Dest} {preempt : Bool} (h : first ≤ last)
    (hHeld : lowestConflict s p preempt first.val last.val = some (d, q)) :
    claimHandler p [numByte first, numByte last, flagByte preempt] s
      = (s, ⟨.heldBy, [numByte d, numByte q]⟩) := by
  simp only [claimHandler, readClaimMode, readOnOff_flagByte, toNat_numByte_dest, if_neg (Nat.not_lt.mpr h), hHeld]
  rfl

theorem isConflict_leased (s : State) (p : Port) (preempt : Bool) (d : Dest) :
    isConflict (leased p s) p preempt d = isConflict s p preempt d := by
  refine Bool.eq_iff_iff.mpr ?_
  simp only [isConflict_iff, leased_claims, leased_precedence]

/-- Settles O34: the handler's three outcomes on the leased state, whose Claim Table and sessions' numbers and
precedences are those of `s`; what the claim took is read off entry by entry. -/
theorem claimTakesTheRangeOrNothing : Obligations.ClaimTakesTheRangeOrNothing := by
  refine ⟨fun s p tag a b m hReady hOpen hBad => ?refused, fun s p tag first last preempt hReady hOpen hRange =>
    ⟨fun hFree => ?free, fun d w hConflict hLeast hOwner => ?heldBy⟩⟩
  case refused =>
    exact exec_of_handle_session (c := .claim) hReady hOpen rfl rfl (claimHandler_refused _ p hBad)
  case free =>
    have hNone : lowestConflict (leased p s) p preempt first.val last.val = none := by
      refine lowestConflict_none fun d hFrom hTo => ?_
      rw [isConflict_leased, ← Bool.not_eq_true, isConflict_iff]
      exact fun hHeld => hFree d ⟨hFrom, hTo, hHeld⟩
    have hHandle : Cmd.claim.handle p [numByte first, numByte last, flagByte preempt] .whole (leased p s) = _ :=
      claimHandler_free hRange hNone
    rw [claimedCount_leased, takenCount_leased, claimedCount_eq, takenCount_eq] at hHandle
    refine ⟨_, exec_of_handle_session (c := .claim) hReady hOpen rfl rfl hHandle, fun d => ?claims, ?raised, ?rest⟩
    case claims => exact (claimed_get (leased p s) p first last d).trans (by rw [leased_claims, leased_number])
    case raised =>
      change (leased p s).raised ++ claimLostEvents (leased p s) p first.val last.val = _
      rw [leased_raised, claimLostEvents]
      refine congrArg (s.raised ++ ·) (congrArg (List.filterMap · _) (funext fun q => ?_))
      rw [lostBy_eq, leased_claims, State.sessionNo, leased_number]
      generalize List.filter (fun d => decide (q ≠ p ∧ (s.claims.get d).map Owner.port = some q)) _ = lost
      cases lost <;> rfl
    case rest => rw [leased_frame]
  case heldBy =>
    obtain ⟨hFrom, hTo, hHeld⟩ := hConflict
    have hOther : w.port ≠ p := by
      obtain ⟨w', hOwner', hOther', -⟩ := hHeld
      rw [hOwner] at hOwner'
      exact Option.some.inj hOwner' ▸ hOther'
    refine exec_of_handle_session (c := .claim) hReady hOpen rfl rfl (claimHandler_heldBy hRange
      (lowestConflict_some ⟨hFrom, hTo⟩ ?_ (fun e hFrom hTo hBelow => ?_) ((leased_claims p s).symm ▸ hOwner) hOther))
    · exact (isConflict_leased s p preempt d).trans ((isConflict_iff s p preempt d).mpr hHeld)
    · rw [isConflict_leased, ← Bool.not_eq_true, isConflict_iff]
      exact fun hHeld => hLeast e hBelow ⟨hFrom, hTo, hHeld⟩

end Sys2Proof.Machine
end

section
/-! SOFT_RESET (R100, R101, R174): what its beginning leaves, what each further step does to its block, and the whole
as its steps in order. -/

namespace Sys2Proof.Machine

/-! ### The command taken (R100 steps 1 to 3) -/

/-- SOFT_RESET taken, whichever way its steps are held (log 6): its OK joins what the handler leaves. -/
theorem exec_softReset_command {s : State} {p : Port} (tag : Byte) (span : ResetSpan) (hReady : Ready p s)
    (hRight : HasRight p s) :
    exec (.softReset (.command p tag [] span)) s
      = .next (answering p tag (softResetHandler p span (leased p s)).2 (softResetHandler p span (leased p s)).1) := by
  change Host.Outcome.next (s.commandArrives p tag .softReset [] span) = _
  obtain ⟨hOpen, hPrecedence⟩ := hRight
  rw [commandArrives_ready p tag .softReset [] span s hReady,
    gate_pass p .softReset [] span (leased p s) (fun _ => (leased_isOpen p p s).trans hOpen)
      (fun _ => (leased_precedence p p s).trans hPrecedence) rfl]
  rfl

theorem exec_softReset_begun {s : State} {p : Port} (tag : Byte) (hReady : Ready p s) (hRight : HasRight p s) :
    exec (.softReset (.command p tag [] .begun)) s = .next (answering p tag (ok [])
      { (leased p s).beginSoftReset p with resetToReach := ResetBlock.all }) :=
  exec_softReset_command tag .begun hReady hRight

theorem exec_softReset_whole {s : State} {p : Port} (tag : Byte) (hReady : Ready p s) (hRight : HasRight p s) :
    exec (.softReset (.command p tag [] .whole)) s
      = .next (answering p tag (ok []) ((leased p s).beginSoftReset p).reachAll) :=
  exec_softReset_command tag .whole hReady hRight

/-- A row is CLOSED with its lease stopped, so a lease renewed before is not seen. -/
theorem closed_leased (p q : Port) (why : EndReason) (s : State) :
    ((leased p s).sessions.get q).closed why = { s.sessions.get q with isOpen := false, endReason := why, lease := none } := by
  rw [leased]
  split
  · rw [Tab.get_modify]
    split
    next hSame =>
      subst hSame
      rfl
    · rfl
  · rfl

theorem beginSoftReset_ports (p q : Port) (s : State) :
    (s.beginSoftReset p).ports.get q
      = if q = p then s.ports.get q else { (s.ports.get q).loseResponse with responses := [] } :=
  Tab.get_tabulate ..

theorem beginSoftReset_sessions (p q : Port) (s : State) :
    ((leased p s).beginSoftReset p).sessions.get q
      = { s.sessions.get q with isOpen := false, endReason := .reset, lease := none } :=
  (Tab.get_map ..).trans (closed_leased p q .reset s)

/-- The beginning touches the ports, the Session and Claim Unit and the events on their way alone. -/
theorem beginSoftReset_frame (p : Port) (s : State) :
    { (leased p s).beginSoftReset p with
        ports := s.ports, sessions := s.sessions, claims := s.claims, raised := s.raised } = s := by
  rw [leased_frame]
  rfl

theorem mem_all_resetBlocks (b : ResetBlock) : b ∈ ResetBlock.all := by
  cases b <;> simp [ResetBlock.all]

/-! ### One further block reached (R100 step 4) -/

theorem exec_reach {s : State} {b : ResetBlock} (h : b ∈ s.resetToReach) :
    exec (.softReset (.reach b)) s
      = .next { s.reachBlock b with resetToReach := s.resetToReach.erase b } := by
  change execSoftReset (.reach b) s = _
  simp only [execSoftReset, if_pos h]

/-- A message whose END is on the line is sent whole; one with bytes still to send is cut (R33). -/
theorem transmitter_softReset (t : Transmitter) :
    (∀ m, t.sending = .sending m → t.softReset = if m.lastPlaced then t else { t with sending := .aborting })
    ∧ ((∀ m, t.sending ≠ .sending m) → t.softReset = t) := by
  rcases hSending : t.sending with _ | m | _ <;> simp [Transmitter.softReset, hSending]

/-- An emptied queue loses its head when it has one. -/
theorem headRemoved_all (q : List EventRecord) : headRemoved (fun _ => false) q = decide (q ≠ []) := by
  cases q <;> simp [headRemoved]

/-! ### The command's own beginning, and the blocks one by one -/

theorem begun_port_self (s : State) (p : Port) (tag : Byte) :
    (answering p tag (ok []) { (leased p s).beginSoftReset p with resetToReach := ResetBlock.all }).ports.get p
      = { s.ports.get p with responses := (s.ports.get p).responses ++ [⟨tag, ⟨.ok, []⟩⟩] } := by
  rw [answering, Tab.get_modify, if_pos rfl, beginSoftReset_ports, if_pos rfl, leased_ports]
  rfl

theorem begun_port_other (s : State) {p q : Port} (h : q ≠ p) (tag : Byte) :
    (answering p tag (ok []) { (leased p s).beginSoftReset p with resetToReach := ResetBlock.all }).ports.get q
      = { (s.ports.get q).loseResponse with responses := [] } := by
  rw [answering, Tab.get_modify, if_neg h, beginSoftReset_ports, if_neg h, leased_ports]

/-- Settles O36: the beginning by its parts, then one equation a block. -/
theorem softResetClosesSessionsAndReachesBlocks : Obligations.SoftResetClosesSessionsAndReachesBlocks := by
  refine ⟨fun s p tag hReady hRight => ⟨_, exec_softReset_begun tag hReady hRight, begun_port_self s p tag,
    fun q hOther => ?others, fun q => beginSoftReset_sessions p q s, fun d => Tab.get_fill .., rfl, rfl,
    mem_all_resetBlocks, ?rest⟩, fun s => ⟨s.barredPorts, rfl, fun q => ?barred⟩, fun s => ⟨fun b hMem =>
    ⟨_, exec_reach hMem, rfl⟩, fun n hMem => exec_reach hMem, fun n hMem => ?transmitter, fun hMem => exec_reach hMem,
    fun hMem => exec_reach hMem, fun hMem => exec_reach hMem, fun hMem => exec_reach hMem,
    fun hMem => ⟨_, exec_reach hMem, fun p => ⟨Tab.get_fill .., ?eventPort⟩, rfl⟩, fun p hMem => exec_reach hMem⟩⟩
  case others =>
    rw [begun_port_other s hOther]
    refine ⟨rfl, rfl, fun x hChosen => ?_, fun hNone => ?_⟩
    · rw [PortState.loseResponse, hChosen, Option.map_some]
    · rw [PortState.loseResponse, hNone, Option.map_none]
  case rest =>
    exact (congrArg (fun t : State => { t with resetToReach := s.resetToReach }) (beginSoftReset_frame p s))
  case barred => simp [State.barredPorts]
  case transmitter =>
    rw [exec_reach hMem]
    refine congrArg (fun f => Host.Outcome.next { s with
      transmitters := s.transmitters.modify n f, resetToReach := s.resetToReach.erase (.transmitter n) })
      (funext fun t => ?_)
    obtain ⟨hCut, hKept⟩ := transmitter_softReset t
    rcases hSending : t.sending with _ | m | _
    · exact hKept (by simp [hSending])
    · exact hCut m hSending
    · exact hKept (by simp [hSending])
  case eventPort => rw [← headRemoved_all]; exact Tab.get_tabulate ..

/-! ### The whole is its steps (R100, R174) -/

/-- A state beside what a soft reset works on: its response queued and the blocks it has still to reach. -/
abbrev besideReset (p : Port) (tag : Byte) (r : Reply) (l : List ResetBlock) (s : State) : State :=
  { answering p tag r s with resetToReach := l }

section beside

variable (p : Port) (tag : Byte) (r : Reply) (l : List ResetBlock) (s : State)

theorem moveTo_besideReset (k : Option RowIx) :
    (besideReset p tag r l s).moveTo k = besideReset p tag r l (s.moveTo k) := by
  rcases hRow : s.selector.state.row with _ | i <;> rcases k with _ | k
  · rw [moveTo_none_of_no_row hRow, moveTo_none_of_no_row (s := besideReset p tag r l s) hRow]
  · have hOther : s.selector.state.row ≠ some k := by simp [hRow]
    rw [moveTo_other hOther, moveTo_other (s := besideReset p tag r l s) hOther]
    rfl
  · rw [moveTo_none_of_row hRow, moveTo_none_of_row (s := besideReset p tag r l s) hRow]
    rfl
  · by_cases hSame : i = k
    · subst hSame
      rw [moveTo_current hRow, moveTo_current (s := besideReset p tag r l s) hRow]
    · have hOther : s.selector.state.row ≠ some k := by simp [hRow, hSame]
      rw [moveTo_other hOther, moveTo_other (s := besideReset p tag r l s) hOther]
      rfl

theorem softResetSelector_besideReset :
    (besideReset p tag r l s).softResetSelector = besideReset p tag r l s.softResetSelector := by
  have hEmpty : (s.onSelector fun l => { l with request := none }).standing = none := standing_of_none rfl
  have hEmpty' : ((besideReset p tag r l s).onSelector fun l => { l with request := none }).standing = none :=
    standing_of_none rfl
  rw [State.softResetSelector, State.softResetSelector, recompute_of_not_standing hEmpty,
    recompute_of_not_standing hEmpty', ← moveTo_besideReset]
  rfl

theorem softResetEvents_besideReset :
    (besideReset p tag r l s).softResetEvents = besideReset p tag r l s.softResetEvents := by
  have hPorts : (besideReset p tag r l s).softResetEvents.ports = (besideReset p tag r l s.softResetEvents).ports := by
    refine Tab.ext_get fun q => ?_
    simp only [answering, State.softResetEvents, Tab.get_tabulate, Tab.get_modify]
    split
    next hSame =>
      subst hSame
      rfl
    · rfl
  exact congrArg (fun ports => { besideReset p tag r l s.softResetEvents with ports := ports }) hPorts

theorem clearPort_besideReset (q : Port) :
    (besideReset p tag r l s).onPort q PortState.clearCounters
      = besideReset p tag r l (s.onPort q PortState.clearCounters) := by
  have hPorts : ((besideReset p tag r l s).onPort q PortState.clearCounters).ports
      = (besideReset p tag r l (s.onPort q PortState.clearCounters)).ports := by
    refine Tab.ext_get fun j => ?_
    simp only [answering, State.onPort_ports, Tab.get_modify]
    by_cases hAnswered : j = p
    · subst hAnswered
      by_cases hCleared : j = q
      · subst hCleared
        simp only [if_true]
        rfl
      · simp only [if_neg hCleared, if_true]
    · by_cases hCleared : j = q
      · subst hCleared
        simp only [if_neg hAnswered, if_true]
      · simp only [if_neg hAnswered, if_neg hCleared]
  exact congrArg
    (fun ports => { besideReset p tag r l (s.onPort q PortState.clearCounters) with ports := ports }) hPorts

/-- No block looks at a response waiting or at what the soft reset has still to reach. -/
theorem reachBlock_besideReset (b : ResetBlock) :
    (besideReset p tag r l s).reachBlock b = besideReset p tag r l (s.reachBlock b) := by
  cases b with
  | receiver n => rfl
  | transmitter n => rfl
  | selector => exact softResetSelector_besideReset p tag r l s
  | map => rfl
  | changeManager => rfl
  | messageUnit => rfl
  | eventUnit => exact softResetEvents_besideReset p tag r l s
  | port q => exact clearPort_besideReset p tag r l s q

theorem exec_reach_besideReset (b : ResetBlock) :
    exec (.softReset (.reach b)) (besideReset p tag r (b :: l) s)
      = .next (besideReset p tag r l (s.reachBlock b)) := by
  rw [exec_reach (List.mem_cons_self ..), reachBlock_besideReset, List.erase_cons_head]

end beside

/-- The steps of a soft reset, taken in the order of what it has still to reach, reach each block. -/
theorem foldl_reach_eq {f : State → ResetBlock → State}
    (hStep : ∀ u b v, exec (.softReset (.reach b)) u = .next v → f u b = v) (p : Port) (tag : Byte) (r : Reply)
    (l : List ResetBlock) (s : State) :
    l.foldl f (besideReset p tag r l s) = besideReset p tag r [] (l.foldl (fun t b => t.reachBlock b) s) := by
  induction l generalizing s with
  | nil => rfl
  | cons b bs ih =>
    rw [List.foldl_cons, List.foldl_cons, hStep _ b _ (exec_reach_besideReset p tag r bs s b)]
    exact ih (s.reachBlock b)

theorem reachBlock_resetToReach (b : ResetBlock) (s : State) : (s.reachBlock b).resetToReach = s.resetToReach := by
  cases b with
  | selector => exact State.recompute_resetToReach _
  | _ => rfl

theorem reachAll_resetToReach (s : State) : s.reachAll.resetToReach = s.resetToReach := by
  rw [State.reachAll]
  generalize ResetBlock.all = l
  induction l generalizing s with
  | nil => rfl
  | cons b bs ih => exact (ih (s.reachBlock b)).trans (reachBlock_resetToReach b s)

/-- Settles O37: a block reached does not look at what stands beside the reset, so the steps fold to the whole. -/
theorem wholeSoftResetIsItsStepsInOrder : Obligations.WholeSoftResetIsItsStepsInOrder := by
  intro s p tag hReady hRight
  refine ⟨_, _, exec_softReset_begun tag hReady hRight, exec_softReset_whole tag hReady hRight, ?_⟩
  obtain ⟨hReset, -, -⟩ := hReady
  generalize hBegun : (leased p s).beginSoftReset p = begun
  have hEmpty : begun.reachAll.resetToReach = [] := by
    rw [reachAll_resetToReach, ← hBegun]
    exact (leased_resetToReach p s).trans hReset
  have hSteps : softResetSteps (besideReset p tag (ok []) ResetBlock.all begun)
      = besideReset p tag (ok []) [] begun.reachAll :=
    foldl_reach_eq (fun u b v h => by simp only [h]) p tag (ok []) ResetBlock.all begun
  refine Eq.trans ?_ hSteps.symm
  rw [besideReset, ← hEmpty]
  rfl

end Sys2Proof.Machine
end

section
/-! LINK_CONFIG (R3, R23, R32): what the receive part and the transmit part make of their link. -/

namespace Sys2Proof.Machine

/-! ### The receive part (R3) -/

section receive

variable {s : State} {n : Link} {on : Bool}

theorem configReceiver_already (h : (s.receivers.get n).state ≠ .disabled ↔ on = true) : s.configReceiver n on = s := by
  cases on with
  | true =>
    have hOn : (s.receivers.get n).state ≠ .disabled := h.mpr rfl
    rcases hState : (s.receivers.get n).state <;> simp_all [State.configReceiver]
  | false =>
    have hOff : (s.receivers.get n).state = .disabled := by simpa using h
    simp only [State.configReceiver, hOff]

theorem configReceiver_enable (h : (s.receivers.get n).state = .disabled) :
    s.configReceiver n true = { s with
      receivers := s.receivers.put n { s.receivers.get n with state := .noSignal, qualifying := none }
      raised := s.raised ++ [⟨.receiver n, s.everyone, .linkState n .noSignal (s.receivers.get n).degraded⟩] } := by
  simp only [State.configReceiver, h, raiseLinkState_onReceiver]

theorem configReceiver_disable (h : (s.receivers.get n).state ≠ .disabled) :
    s.configReceiver n false = (s.leaveTo n Receiver.disable).reportSources := by
  rcases hState : (s.receivers.get n).state
  · exact absurd hState h
  all_goals simp only [State.configReceiver, hState]

end receive

/-- What LINK_CONFIG's receive part leaves of link `n`. -/
structure ReceiveSet (n : Link) (on : Bool) (u t : State) : Prop where
  already : ((u.receivers.get n).state ≠ .disabled ↔ on = true) →
    t.receivers.get n = u.receivers.get n ∧ t.stores.get n = u.stores.get n
  enabled : (u.receivers.get n).state = .disabled → on = true →
    t.receivers.get n = { u.receivers.get n with state := .noSignal, qualifying := none }
  disabled : (u.receivers.get n).state ≠ .disabled → on = false → t.receivers.get n = (u.receivers.get n).disable
  released : (u.receivers.get n).state = .inFrame → on = false →
    t.stores.get n = (u.stores.get n).release ∧ t.assemblers.get n = { u.assemblers.get n with buffer := none }
  linkState : ¬ ((u.receivers.get n).state ≠ .disabled ↔ on = true) →
    (⟨.receiver n, u.everyone, .linkState n (t.receivers.get n).state (t.receivers.get n).degraded⟩ : RaisedEvent)
      ∈ t.raised
  others : OtherLinksKept n u t
  mailboxes : t.mailboxes = u.mailboxes

theorem receiveSet_of_already {n : Link} {on : Bool} {u : State}
    (h : (u.receivers.get n).state ≠ .disabled ↔ on = true) : ReceiveSet n on u u where
  already := fun _ => ⟨rfl, rfl⟩
  enabled := fun hOff hOn => absurd hOff (h.mpr hOn)
  disabled := fun hNotOff hOff => by simp [h.mp hNotOff] at hOff
  released := fun hIn hOff => by simp [h.mp (by rw [hIn]; decide)] at hOff
  linkState := fun hMoved => absurd h hMoved
  others := fun _ _ => ⟨rfl, rfl, rfl⟩
  mailboxes := rfl

theorem receiveSet_configReceiver (n : Link) (on : Bool) (u : State) : ReceiveSet n on u (u.configReceiver n on) := by
  by_cases hAlready : (u.receivers.get n).state ≠ .disabled ↔ on = true
  · rw [configReceiver_already hAlready]
    exact receiveSet_of_already hAlready
  · cases on with
    | true =>
      have hOff : (u.receivers.get n).state = .disabled := by simpa using hAlready
      rw [configReceiver_enable hOff]
      exact {
        already := fun h => absurd h hAlready
        enabled := fun _ _ => (Tab.get_put ..).trans (if_pos rfl)
        disabled := fun _ h => by simp at h
        released := fun _ h => by simp at h
        linkState := fun _ => by simp
        others := fun m hm => ⟨by simp [hm], rfl, rfl⟩
        mailboxes := rfl }
    | false =>
      have hOn : (u.receivers.get n).state ≠ .disabled := by simpa using hAlready
      have hLeft := left_leaveTo n Receiver.disable u
      rw [configReceiver_disable hOn]
      exact {
        already := fun h => absurd h hAlready
        enabled := fun _ h => by simp at h
        disabled := fun _ _ => hLeft.receiver
        released := fun hIn _ => hLeft.inFrame hIn
        linkState := fun _ => hLeft.receiver ▸ hLeft.linkState
        others := hLeft.others
        mailboxes := hLeft.mailboxes }

/-! ### The transmit part (R23, R32) -/

section transmit

variable {s : State} {n : Link} {on : Bool}

theorem configTransmitter_already (h : (s.transmitters.get n).state ≠ .off ↔ on = true) :
    s.configTransmitter n on = s := by
  cases on with
  | true =>
    have hOn : (s.transmitters.get n).state ≠ .off := h.mpr rfl
    rcases hState : (s.transmitters.get n).state <;> simp_all [State.configTransmitter]
  | false =>
    have hOff : (s.transmitters.get n).state = .off := by simpa using h
    simp only [State.configTransmitter, hOff]

theorem configTransmitter_enable (h : (s.transmitters.get n).state = .off) :
    s.configTransmitter n true = { s with
      transmitters := s.transmitters.put n ⟨.waiting, .idle, none, (s.transmitters.get n).level⟩ } := by
  simp only [State.configTransmitter, h]
  rfl

theorem configTransmitter_disable (h : (s.transmitters.get n).state ≠ .off) :
    s.configTransmitter n false = { s with
      transmitters := s.transmitters.put n ⟨.off, .idle, none, s.lineLevel n s.now⟩
      txNotices := s.txNotices.put n (s.txNotices.get n ++ (s.transmitters.get n).sending.disableNotices) } := by
  rcases hState : (s.transmitters.get n).state
  · exact absurd hState h
  all_goals
    simp only [State.configTransmitter, hState]
    rfl

end transmit

/-- What LINK_CONFIG's transmit part leaves of link `n`. -/
structure TransmitSet (n : Link) (on : Bool) (u t : State) : Prop where
  already : ((u.transmitters.get n).state ≠ .off ↔ on = true) →
    t.transmitters.get n = u.transmitters.get n ∧ t.txNotices.get n = u.txNotices.get n
  enabled : (u.transmitters.get n).state = .off → on = true →
    t.transmitters.get n = ⟨.waiting, .idle, none, (u.transmitters.get n).level⟩ ∧ t.txNotices.get n = u.txNotices.get n
  disabled : (u.transmitters.get n).state ≠ .off → on = false →
    t.transmitters.get n = ⟨.off, .idle, none, u.lineLevel n u.now⟩
      ∧ t.txNotices.get n = u.txNotices.get n ++ (u.transmitters.get n).sending.disableNotices
  others : ∀ m, m ≠ n → t.transmitters.get m = u.transmitters.get m ∧ t.txNotices.get m = u.txNotices.get m

theorem transmitSet_configTransmitter (n : Link) (on : Bool) (u : State) :
    TransmitSet n on u (u.configTransmitter n on) := by
  by_cases hAlready : (u.transmitters.get n).state ≠ .off ↔ on = true
  · rw [configTransmitter_already hAlready]
    exact {
      already := fun _ => ⟨rfl, rfl⟩
      enabled := fun hOff hOn => absurd hOff (hAlready.mpr hOn)
      disabled := fun hNotOff hOff => by simp [hAlready.mp hNotOff] at hOff
      others := fun _ _ => ⟨rfl, rfl⟩ }
  · cases on with
    | true =>
      have hOff : (u.transmitters.get n).state = .off := by simpa using hAlready
      rw [configTransmitter_enable hOff]
      exact {
        already := fun h => absurd h hAlready
        enabled := fun _ _ => ⟨(Tab.get_put ..).trans (if_pos rfl), rfl⟩
        disabled := fun _ h => by simp at h
        others := fun m hm => ⟨by simp [hm], rfl⟩ }
    | false =>
      have hOn : (u.transmitters.get n).state ≠ .off := by simpa using hAlready
      rw [configTransmitter_disable hOn]
      exact {
        already := fun h => absurd h hAlready
        enabled := fun _ h => by simp at h
        disabled := fun _ _ => ⟨(Tab.get_put ..).trans (if_pos rfl), (Tab.get_put ..).trans (if_pos rfl)⟩
        others := fun m hm => ⟨by simp [hm], by simp [hm]⟩ }

/-! ### The two parts on the state of the command -/

section carried

variable {s t : State} {p : Port} {n : Link} {on : Bool}

/-- A lease renewed changes nothing the receive part looks at. -/
theorem ReceiveSet.of_leased (h : ReceiveSet n on (leased p s) t) : ReceiveSet n on s t where
  already := by simpa only [leased_receivers, leased_stores] using h.already
  enabled := by simpa only [leased_receivers] using h.enabled
  disabled := by simpa only [leased_receivers] using h.disabled
  released := by simpa only [leased_receivers, leased_stores, leased_assemblers] using h.released
  linkState := by simpa only [leased_receivers, leased_everyone] using h.linkState
  others := by simpa only [OtherLinksKept, leased_receivers, leased_stores, leased_assemblers] using h.others
  mailboxes := by simpa only [leased_mailboxes] using h.mailboxes

/-- The transmit part changes nothing the receive part sets. -/
theorem ReceiveSet.configTransmitter (h : ReceiveSet n on s t) (m : Link) (tx : Bool) :
    ReceiveSet n on s (t.configTransmitter m tx) where
  already := by simpa only [State.configTransmitter_receivers, State.configTransmitter_stores] using h.already
  enabled := by simpa only [State.configTransmitter_receivers] using h.enabled
  disabled := by simpa only [State.configTransmitter_receivers] using h.disabled
  released := by simpa only [State.configTransmitter_stores, State.configTransmitter_assemblers] using h.released
  linkState := by simpa only [State.configTransmitter_receivers, State.configTransmitter_raised] using h.linkState
  others := by
    simpa only [OtherLinksKept, State.configTransmitter_receivers, State.configTransmitter_stores,
      State.configTransmitter_assemblers] using h.others
  mailboxes := by simpa only [State.configTransmitter_mailboxes] using h.mailboxes

theorem lineLevel_configReceiver (rx : Bool) :
    ((leased p s).configReceiver n rx).lineLevel n ((leased p s).configReceiver n rx).now = s.lineLevel n s.now := by
  simp only [State.lineLevel, State.configReceiver_transmitters, State.configReceiver_timing,
    State.configReceiver_now, leased_transmitters, leased_timing, leased_now]

/-- Neither the lease nor the receive part changes what the transmit part looks at. -/
theorem TransmitSet.of_configReceiver {rx : Bool} (h : TransmitSet n on ((leased p s).configReceiver n rx) t) :
    TransmitSet n on s t where
  already := by
    simpa only [State.configReceiver_transmitters, State.configReceiver_txNotices, leased_transmitters,
      leased_txNotices] using h.already
  enabled := by
    simpa only [State.configReceiver_transmitters, State.configReceiver_txNotices, leased_transmitters,
      leased_txNotices] using h.enabled
  disabled := by
    simpa only [State.configReceiver_transmitters, State.configReceiver_txNotices, leased_transmitters,
      leased_txNotices, lineLevel_configReceiver] using h.disabled
  others := by
    simpa only [State.configReceiver_transmitters, State.configReceiver_txNotices, leased_transmitters,
      leased_txNotices] using h.others

end carried

/-! ### LINK_CONFIG -/

theorem linkConfigHandler_refused (s : State) {a b c : Byte} (h : 16 ≤ a.toNat ∨ 1 < b.toNat ∨ 1 < c.toNat) :
    linkConfigHandler [a, b, c] s = (s, badArg) := by
  rcases hLink : readLink a with _ | n
  · simp only [linkConfigHandler, hLink]
  rcases hRx : readOnOff b with _ | rx
  · simp only [linkConfigHandler, hLink, hRx]
  rcases hTx : readOnOff c with _ | tx
  · simp only [linkConfigHandler, hLink, hRx, hTx]
  obtain hHigh | hHigh | hHigh := h
  · rw [readLink_none a hHigh] at hLink
    cases hLink
  · rw [readOnOff_none b hHigh] at hRx
    cases hRx
  · rw [readOnOff_none c hHigh] at hTx
    cases hTx

theorem linkConfigHandler_link (s : State) (n : Link) (rx tx : Bool) :
    linkConfigHandler [numByte n, flagByte rx, flagByte tx] s
      = ((s.configReceiver n rx).configTransmitter n tx, ok []) := by
  simp only [linkConfigHandler, readLink_numByte, readOnOff_flagByte]

/-- The two parts touch their own tables, and no message reaches a mailbox. -/
theorem linkConfig_frame (u : State) (n : Link) (rx tx : Bool) :
    { (u.configReceiver n rx).configTransmitter n tx with
        receivers := u.receivers, stores := u.stores, assemblers := u.assemblers, transmitters := u.transmitters
        txNotices := u.txNotices, selector := u.selector, raised := u.raised } = u := by
  rw [State.configTransmitter_frame, State.configReceiver_frame, (receiveSet_configReceiver n rx u).mailboxes]

/-- Settles O38: the two parts of LINK_CONFIG one after the other, the transmit part on a state whose transmitters are
those of the command. -/
theorem linkConfigSetsTheEnables : Obligations.LinkConfigSetsTheEnables := by
  refine ⟨fun s p tag a b c hReady hRight hBad =>
    exec_of_handle_right (c := .linkConfig) hReady hRight rfl (linkConfigHandler_refused _ hBad), ?config⟩
  case config =>
    rintro s p tag n rx tx r x hReady hRight rfl rfl
    have hHandle : Cmd.linkConfig.handle p [numByte n, flagByte rx, flagByte tx] .whole (leased p s) = _ :=
      linkConfigHandler_link (leased p s) n rx tx
    have hExec := exec_of_handle_right (tag := tag) hReady hRight rfl hHandle
    have hRx := ((receiveSet_configReceiver n rx (leased p s)).of_leased).configTransmitter n tx
    have hTx := (transmitSet_configTransmitter n tx ((leased p s).configReceiver n rx)).of_configReceiver
    have hFrame := linkConfig_frame (leased p s) n rx tx
    rw [leased_receivers, leased_stores, leased_assemblers, leased_transmitters, leased_txNotices, leased_selector,
      leased_raised] at hFrame
    refine ⟨_, hExec, hRx.already, hRx.enabled, hRx.disabled, hRx.released, hRx.linkState, hTx.already, hTx.enabled,
      fun hOn hOff => ?disabled, hRx.others, hTx.others, hFrame⟩
    case disabled =>
      obtain ⟨hTransmitter, hNotices⟩ := hTx.disabled hOn hOff
      refine ⟨hTransmitter, hNotices.trans ?_⟩
      rcases (s.transmitters.get n).sending <;> rfl

end Sys2Proof.Machine
end

section
/-! The transmitted grade and the frames that carry it (R23 to R27, R53), and what REF_STATUS and READ_MAP report
(R60, R79). -/

namespace Sys2Proof.Machine

/-! ### The transmitted grade (R53) -/

/-- One above the source's grade, and 6 at most. -/
theorem toNat_capped (g : Grade) : (if g.toNat + 1 < 6 then g + 1 else 6 : Grade).toNat = min (g.toNat + 1) 6 := by
  revert g
  decide

theorem transmittedGrade_locked_wclk {s : State} {r : RowIx} (hState : s.selector.state = .locked r)
    (hSource : (s.selector.table.get r).source = .wclk) : s.transmittedGrade = s.selector.wclkGrade := by
  simp only [State.transmittedGrade, hState, State.row, hSource]

theorem transmittedGrade_locked_link {s : State} {r : RowIx} {n : Link} (hState : s.selector.state = .locked r)
    (hSource : (s.selector.table.get r).source = .link n) :
    s.transmittedGrade.toNat = min ((s.receivers.get n).grade.toNat + 1) 6 := by
  simp only [State.transmittedGrade, hState, State.row, hSource]
  exact toNat_capped _

/-! ### The frame of a boundary (R23, R25, R26) -/

/-- What a boundary has done when its transmitters send. -/
def mapComputed (s : State) : State := (storesRead s).take.computeMap

theorem afterBoundary_eq_transmit (s : State) : afterBoundary s = (mapComputed s).transmit := rfl

@[simp] theorem mapComputed_transmitters (s : State) : (mapComputed s).transmitters = s.transmitters := by
  simp [mapComputed, storesRead, phaseTested, frameBegun]

@[simp] theorem mapComputed_txQueues (s : State) : (mapComputed s).txQueues = s.txQueues := by
  simp [mapComputed, storesRead, phaseTested, frameBegun]

theorem transmit_of_off {s : State} {n : Link} (h : (s.transmitters.get n).state = .off) :
    s.transmit.transmitters.get n = s.transmitters.get n ∧ s.transmit.txQueues.get n = s.txQueues.get n := by
  have hSilent : ¬ (s.transmitters.get n).sends = true := by simp [Transmitter.sends, h]
  simp only [State.transmit, Tab.get_tabulate, if_neg hSilent, and_self]

/-- A transmitter that is on sends a frame of the grade and the samples of its moment. -/
theorem transmit_of_on {s : State} {n : Link} (h : (s.transmitters.get n).state ≠ .off) :
    s.transmit.transmitters.get n = ⟨.active, ((s.transmitters.get n).step (s.txQueues.get n)).sending,
      some (buildFrame s.transmittedGrade ((s.transmitters.get n).step (s.txQueues.get n)).field (outputSamples s n)),
      (s.transmitters.get n).endLevel⟩ := by
  have hSends : (s.transmitters.get n).sends = true := by simp [Transmitter.sends, h]
  simp only [State.transmit, Tab.get_tabulate, if_pos hSends]

/-- The transmitters change neither the reference nor the map. -/
theorem transmittedGrade_transmit (s : State) : s.transmit.transmittedGrade = s.transmittedGrade := rfl

theorem outputSamples_get (s : State) (n : Link) (i : Slot) :
    (outputSamples s n).get i = (s.activeMap.get ⟨16 * n.val + i.val, by omega⟩).current :=
  Tab.get_tabulate ..

/-- Settles O44: the grade by the selector's state; the frame is `buildFrame` of it, and its line the cells of its
bits. -/
theorem transmittedGradeAndLinkFramesBuilt : Obligations.TransmittedGradeAndLinkFramesBuilt := by
  refine ⟨fun s r => ⟨fun hState => ?freeRun, fun hState => ?holdover, fun hState => ?locking,
    transmittedGrade_locked_wclk, fun n => transmittedGrade_locked_link⟩, fun s n => ⟨afterBoundary s, exec_boundary s,
    fun hOff => ?off, fun hOn => ?on⟩, endLevel_cases⟩
  case freeRun => simp only [State.transmittedGrade, hState]
  case holdover => simp only [State.transmittedGrade, hState]
  case locking => simp only [State.transmittedGrade, hState]
  case off =>
    have hSilent := transmit_of_off (s := mapComputed s) (n := n) (by rw [mapComputed_transmitters]; exact hOff)
    rw [mapComputed_transmitters, mapComputed_txQueues] at hSilent
    exact hSilent
  case on =>
    have hSent := transmit_of_on (s := mapComputed s) (n := n) (by rw [mapComputed_transmitters]; exact hOn)
    rw [mapComputed_transmitters, mapComputed_txQueues, ← transmittedGrade_transmit,
      ← afterBoundary_eq_transmit] at hSent
    obtain ⟨hLength, hCells⟩ := cells_of_line ((afterBoundary s).transmitters.get n) _ (by rw [hSent])
    have hLevel : ((afterBoundary s).transmitters.get n).level = (s.transmitters.get n).endLevel := by rw [hSent]
    rw [hLevel] at hCells
    exact ⟨by rw [hSent], _, by rw [hSent], aligned_buildFrame .., crcGood_buildFrame .., grade_buildFrame ..,
      reserved_buildFrame .., fun i => (slot_buildFrame ..).trans (outputSamples_get (mapComputed s) n i), hLength,
      hCells⟩

/-! ### What REF_STATUS reports (R60) -/

section refStatus

variable (p : Port) (s : State)

theorem rowPresent_leased (r : RowIx) : (leased p s).rowPresent r = s.rowPresent r := by
  rw [← sourcePresent_eq_rowPresent, ← sourcePresent_eq_rowPresent, State.row, leased_selector]
  exact sourcePresent_congr (leased_receivers p s) (leased_selector p s) _ _

theorem transmittedGrade_leased : (leased p s).transmittedGrade = s.transmittedGrade := by
  simp only [State.transmittedGrade, State.row, leased_selector, leased_receivers]

/-- A lease renewed changes nothing of what is reported. -/
theorem refStatusHandler_leased : refStatusHandler (leased p s) = (leased p s, (refStatusHandler s).2) := by
  have hRows : rowStatus (leased p s) = rowStatus s := funext fun r => by
    simp only [rowStatus, rowPresent_leased, State.row, leased_selector, leased_now]
  simp only [refStatusHandler, hRows, holdoverRemaining, State.frame, standing_leased, transmittedGrade_leased,
    leased_selector, leased_timing, leased_now]

end refStatus

/-- A stopped holdover timer reports no limit in HOLDOVER, and stopped elsewhere (R60, R159). -/
theorem holdoverRemaining_eq (s : State) : holdoverRemaining s
    = if s.selector.holdoverTimer = none ∧ s.selector.state = .holdover then [0xFF, 0xFF, 0xFF, 0xFE]
      else timeRemaining s.now s.selector.holdoverTimer := by
  rcases hTimer : s.selector.holdoverTimer with _ | d
  · rcases hState : s.selector.state <;> simp only [holdoverRemaining, hTimer, hState] <;> rfl
  · simp [holdoverRemaining, hTimer]

theorem refSourceByte_eq (x : RefSource) : refSourceByte x = [refByte x] := by
  cases x <;> rfl

/-! ### What READ_MAP reports (R79) -/

/-- A stretch of the destinations is those within its bounds. -/
theorem take_drop_finRange (n a b : Nat) : ((List.finRange n).drop a).take b
    = (List.finRange n).filter fun d => a ≤ d.val ∧ d.val < a + b := by
  have hRising : (List.finRange n).Pairwise (· < ·) := List.pairwise_lt_finRange n
  have hStretch : (((List.finRange n).drop a).take b).Pairwise (· < ·) :=
    hRising.sublist ((List.take_sublist ..).trans (List.drop_sublist ..))
  have hFiltered := hRising.filter fun d => decide (a ≤ d.val ∧ d.val < a + b)
  refine List.Perm.eq_of_pairwise (le := (· < ·)) (fun x y _ _ hxy hyx => absurd hxy hyx.asymm) hStretch hFiltered
    ((List.perm_ext_iff_of_nodup (hStretch.imp ne_of_lt) (hFiltered.imp ne_of_lt)).mpr fun d => ?_)
  simp only [List.mem_take_iff_getElem, List.getElem_drop, List.getElem_finRange, List.length_drop,
    List.length_finRange, List.mem_filter, List.mem_finRange, true_and, decide_eq_true_eq]
  constructor
  · rintro ⟨i, hi, rfl⟩
    simp only [Fin.val_cast]
    omega
  · rintro ⟨hFrom, hTo⟩
    exact ⟨d.val - a, by omega, Fin.ext (by simp only [Fin.val_cast]; omega)⟩

theorem readMapHandler_range (s : State) {first count : Byte} (hSome : 1 ≤ count.toNat) (hFew : count.toNat ≤ 8)
    (hWithin : first.toNat + count.toNat ≤ 256) :
    readMapHandler [first, count] s = (s, ok (bytes32 s.timing.frameCounter
      ++ ((List.finRange 256).filter fun d => first.toNat ≤ d.val ∧ d.val < first.toNat + count.toNat).flatMap
        fun d => (s.activeMap.get d).bytes d)) := by
  have hAccepted : ¬ (count.toNat = 0 ∨ 8 < count.toNat ∨ 255 < first.toNat + count.toNat - 1) := by omega
  simp only [readMapHandler, if_neg hAccepted, take_drop_finRange]
  rfl

theorem readMapHandler_refused (s : State) {first count : Byte}
    (h : count = 0 ∨ 8 < count.toNat ∨ 256 < first.toNat + count.toNat) :
    readMapHandler [first, count] s = (s, badArg) := by
  have hRefused : count.toNat = 0 ∨ 8 < count.toNat ∨ 255 < first.toNat + count.toNat - 1 := by
    obtain rfl | hMany | hPast := h
    · exact .inl rfl
    · exact .inr (.inl hMany)
    · exact .inr (.inr (by omega))
  simp only [readMapHandler, if_pos hRefused]

/-- Settles O43: both handlers read the state alone; each part of what they report is one equation of bytes. -/
theorem refStatusAndReadMapReport : Obligations.RefStatusAndReadMapReport := by
  refine ⟨?status, fun s p tag first count hReady => ⟨fun hSome hFew hWithin => ?map, fun hBad => ?refused⟩⟩
  case status =>
    intro s p tag hReady l ms rowOr
    refine (exec_of_handle (c := .refStatus) hReady rfl rfl rfl (refStatusHandler_leased p s)).trans ?_
    have hTimer : ∀ timer, timeRemaining s.now timer = ms timer := by rintro (_ | d) <;> rfl
    have hRow : ∀ r, rowByte r = [rowOr r] := by rintro (_ | r) <;> rfl
    have hHoldover := holdoverRemaining_eq s
    rw [hTimer] at hHoldover
    have hRows : rowStatus s = fun r => [refByte (l.table.get r).source, numByte (l.table.get r).gradeLimit.toNat,
        flagByte (l.table.get r).lockout, flagByte (s.rowPresent r), numByte (l.table.get r).qualification.code]
        ++ ms (l.table.get r).restoreTimer := funext fun r => by
      rw [rowStatus, hTimer, gradeByte_eq_small, onOff_eq_flagByte, onOff_eq_flagByte, refSourceByte_eq]
      rfl
    simp only [refStatusHandler, hHoldover, hRows, hRow, gradeByte_eq_small, onOff_eq_flagByte, requestBytes_standing]
    rfl
  case map =>
    have hHandle : Cmd.readMap.handle p [first, count] .whole (leased p s) = _ :=
      readMapHandler_range (leased p s) hSome hFew hWithin
    refine (exec_of_handle hReady rfl rfl rfl hHandle).trans ?_
    have hEntry : ∀ d : Dest, (s.activeMap.get d).bytes d
        = [numByte d] ++ sourceBytes (s.activeMap.get d).source
          ++ [flagByte (s.activeMap.get d).mute, flagByte (s.activeMap.get d).invert]
          ++ (match (s.activeMap.get d).fade with
            | some f => [0x01] ++ sourceBytes f.previous ++ nat16 f.length ++ nat16 f.elapsed
            | none => [0x00])
          ++ sampleBytes (s.activeMap.get d).current := fun d => by
      rcases hFade : (s.activeMap.get d).fade with _ | f <;>
        simp [MapEntry.bytes, hFade, onOff_eq_flagByte, small, numByte, flagByte]
    rw [leased_timing, leased_activeMap, funext hEntry]
    rfl
  case refused => exact exec_of_handle (c := .readMap) hReady rfl rfl rfl (readMapHandler_refused _ hBad)

end Sys2Proof.Machine
end

section
/-! REF_TABLE, REF_LOCKOUT and REF_MODE (R42 to R44, R50): the row and the settings each leaves, the request it
withdraws, and the one recomputation. -/

namespace Sys2Proof.Machine

/-! ### What a lease renewed leaves of the reference -/

theorem dropEvent_leased (p : Port) (s : State) (why : DropReason) (q : Request) :
    dropEvent (leased p s) why q = dropEvent s why q := by
  simp only [dropEvent, stands_leased, leased_everyone]

theorem editedRow_leased (p : Port) (s : State) (r : RowIx) (source : RefSource) (limit : Grade) :
    editedRow (leased p s) r source limit = editedRow s r source limit := by
  simp only [editedRow, sourcePresent_congr (leased_receivers p s) (leased_selector p s), leased_selector, leased_now]

/-! ### REF_TABLE (R42) -/

/-- A row edited follows its presence at once: it qualifies anew (R41). -/
theorem follow_edit (w : CandidateRow) (source : RefSource) (limit : Grade) (present : Bool) (wait : Nat) (now : Time) :
    (w.edit source limit).follow present wait now = {
      source := source, gradeLimit := limit, lockout := w.lockout
      qualification := if present then (if wait = 0 then .qualified else .waiting) else .absent
      restoreTimer := if present ∧ wait ≠ 0 then some (now + wait * Config.second) else none } := by
  cases present
  · simp [CandidateRow.edit, CandidateRow.follow]
  · by_cases hWait : wait = 0 <;> simp [CandidateRow.edit, CandidateRow.follow, load_eq, hWait]

/-- A state in which row `r` is edited and its request perhaps withdrawn, but the row not yet qualified anew. -/
structure RowEdited (r : RowIx) (source : RefSource) (limit : Grade) (u v : State) : Prop where
  table : v.selector.table = u.selector.table.modify r (CandidateRow.edit source limit)
  monitor : v.selector.monitor = u.selector.monitor
  restoreWait : v.selector.restoreWait = u.selector.restoreWait
  receivers : v.receivers = u.receivers
  now : v.now = u.now

theorem RowEdited.follow {r : RowIx} {source : RefSource} {limit : Grade} {u v : State}
    (h : RowEdited r source limit u v) :
    (v.onRow r fun w => w.follow (v.rowPresent r) v.selector.restoreWait v.now)
      = { v with selector := { v.selector with table := u.selector.table.put r (editedRow u r source limit) } } := by
  have hRow : v.row r = (u.row r).edit source limit := by
    rw [State.row, h.table, Tab.get_modify, if_pos rfl]
    rfl
  have hPresent : v.rowPresent r = sourcePresent u source limit := by
    rw [← sourcePresent_eq_rowPresent, hRow]
    cases source with
    | empty => rfl
    | link n => simp only [CandidateRow.edit, sourcePresent, h.receivers]
    | wclk => simp only [CandidateRow.edit, sourcePresent, h.monitor]
  have hTable : v.selector.table.modify r (fun w => w.follow (v.rowPresent r) v.selector.restoreWait v.now)
      = u.selector.table.put r (editedRow u r source limit) := by
    rw [Tab.modify, ← State.row, hRow, hPresent, h.restoreWait, h.now, h.table, Tab.modify, Tab.put_put, follow_edit]
    rfl
  rw [State.onRow, State.onSelector, hTable]

theorem rowEdited_onRow (r : RowIx) (source : RefSource) (limit : Grade) (u : State) :
    RowEdited r source limit u (u.onRow r (CandidateRow.edit source limit)) where
  table := rfl
  monitor := rfl
  restoreWait := rfl
  receivers := rfl
  now := rfl

section refTable

variable {s : State} {r : RowIx} (source : RefSource) (limit : Grade)

/-- A request that names the row is withdrawn with ROW_EDITED. -/
theorem refTableHandler_named {q : Request} (hSlot : s.selector.request = some q) (hNamed : q.row = r) :
    refTableHandler [rowNumByte r, refByte source, numByte limit.toNat] s
      = (State.recompute { s with
          selector := { s.selector with
            table := s.selector.table.put r (editedRow s r source limit), request := none }
          raised := s.raised ++ [dropEvent s .rowEdited q] }, ok []) := by
  have hOnRow : (s.onRow r (CandidateRow.edit source limit)).selector.request.map (·.row) = some r := by
    rw [State.onRow, State.onSelector_selector, hSlot, Option.map_some, hNamed]
  have hWithdrawn := withdraw_of_some (s.onRow r (CandidateRow.edit source limit)) q .rowEdited hSlot
  have hEdited : RowEdited r source limit s ((s.onRow r (CandidateRow.edit source limit)).withdraw .rowEdited) := by
    rw [hWithdrawn]
    exact ⟨rfl, rfl, rfl, rfl, rfl⟩
  have hFollow := hEdited.follow
  rw [hWithdrawn] at hFollow
  simp only [refTableHandler, readRow_rowNumByte, readRefSource_refByte, readGrade_numByte]
  refine Prod.ext (congrArg State.recompute ?_) rfl
  refine Eq.trans ?_ hFollow
  rw [← hWithdrawn]
  exact congrArg (fun v : State => v.onRow r fun w => w.follow (v.rowPresent r) v.selector.restoreWait v.now)
    (if_pos hOnRow)

theorem refTableHandler_unnamed (hFree : ∀ q, s.selector.request = some q → q.row ≠ r) :
    refTableHandler [rowNumByte r, refByte source, numByte limit.toNat] s
      = (State.recompute { s with
          selector := { s.selector with table := s.selector.table.put r (editedRow s r source limit) } }, ok []) := by
  have hOnRow : ¬ (s.onRow r (CandidateRow.edit source limit)).selector.request.map (·.row) = some r := by
    rw [State.onRow, State.onSelector_selector]
    intro hNamed
    obtain ⟨q, hSlot, hRow⟩ := Option.map_eq_some_iff.mp hNamed
    exact hFree q hSlot hRow
  simp only [refTableHandler, readRow_rowNumByte, readRefSource_refByte, readGrade_numByte]
  refine Prod.ext (congrArg State.recompute ?_) rfl
  refine Eq.trans ?_ (rowEdited_onRow r source limit s).follow
  exact congrArg (fun v : State => v.onRow r fun w => w.follow (v.rowPresent r) v.selector.restoreWait v.now)
    (if_neg hOnRow)

theorem refTableHandler_refused {a b c : Byte}
    (h : a = 0 ∨ 8 < a.toNat ∨ (16 < b.toNat ∧ b.toNat < 255) ∨ 7 < c.toNat) :
    refTableHandler [a, b, c] s = (s, badArg) := by
  rcases hRow : readRow a with _ | r
  · simp only [refTableHandler, hRow]
  rcases hSource : readRefSource b with _ | x
  · simp only [refTableHandler, hRow, hSource]
  rcases hGrade : readGrade c with _ | g
  · simp only [refTableHandler, hRow, hSource, hGrade]
  obtain hZero | hHigh | ⟨hLow, hHigh⟩ | hHigh := h
  · rw [readRow_none a (.inl hZero)] at hRow
    cases hRow
  · rw [readRow_none a (.inr hHigh)] at hRow
    cases hRow
  · rw [readRefSource_none b hLow hHigh] at hSource
    cases hSource
  · rw [readGrade_none c hHigh] at hGrade
    cases hGrade

end refTable

/-! ### REF_LOCKOUT (R43) -/

section refLockout

variable {s : State} {r : RowIx} {v : Bool}

theorem refLockoutHandler_same (h : (s.selector.table.get r).lockout = v) :
    refLockoutHandler [rowNumByte r, flagByte v] s = (s, ok []) := by
  simp only [refLockoutHandler, readRow_rowNumByte, readOnOff_flagByte, State.row, h, if_true]

/-- A row locked out while the request names it: the request is withdrawn with LOCKED_OUT. -/
theorem refLockoutHandler_named {q : Request} (hNew : (s.selector.table.get r).lockout ≠ v) (hOn : v = true)
    (hSlot : s.selector.request = some q) (hNamed : q.row = r) :
    refLockoutHandler [rowNumByte r, flagByte v] s = (State.recompute { s with
      selector := { s.selector with
        table := s.selector.table.put r { s.selector.table.get r with lockout := v }, request := none }
      raised := s.raised ++ [dropEvent s .lockedOut q] }, ok []) := by
  have hCondition : v = true ∧ (s.onRow r fun w => { w with lockout := v }).selector.request.map (·.row) = some r := by
    rw [State.onRow, State.onSelector_selector, hSlot, Option.map_some, hNamed]
    exact ⟨hOn, rfl⟩
  have hWithdrawn := withdraw_of_some (s.onRow r fun w => { w with lockout := v }) q .lockedOut hSlot
  simp only [refLockoutHandler, readRow_rowNumByte, readOnOff_flagByte, State.row]
  refine (if_neg hNew).trans (Prod.ext (congrArg State.recompute ?_) rfl)
  exact (if_pos hCondition).trans hWithdrawn

theorem refLockoutHandler_unnamed (hNew : (s.selector.table.get r).lockout ≠ v)
    (hFree : v = false ∨ ∀ q, s.selector.request = some q → q.row ≠ r) :
    refLockoutHandler [rowNumByte r, flagByte v] s = (State.recompute { s with
      selector := { s.selector with
        table := s.selector.table.put r { s.selector.table.get r with lockout := v } } }, ok []) := by
  have hCondition : ¬ (v = true
      ∧ (s.onRow r fun w => { w with lockout := v }).selector.request.map (·.row) = some r) := by
    rw [State.onRow, State.onSelector_selector]
    rintro ⟨hOn, hNamed⟩
    obtain ⟨q, hSlot, hRow⟩ := Option.map_eq_some_iff.mp hNamed
    obtain hOff | hOther := hFree
    · rw [hOn] at hOff
      cases hOff
    · exact hOther q hSlot hRow
  simp only [refLockoutHandler, readRow_rowNumByte, readOnOff_flagByte, State.row]
  refine (if_neg hNew).trans (Prod.ext (congrArg State.recompute ?_) rfl)
  exact if_neg hCondition

theorem refLockoutHandler_refused {a b : Byte} (h : a = 0 ∨ 8 < a.toNat ∨ 1 < b.toNat) :
    refLockoutHandler [a, b] s = (s, badArg) := by
  rcases hRow : readRow a with _ | r
  · simp only [refLockoutHandler, hRow]
  rcases hFlag : readOnOff b with _ | v
  · simp only [refLockoutHandler, hRow, hFlag]
  obtain hZero | hHigh | hHigh := h
  · rw [readRow_none a (.inl hZero)] at hRow
    cases hRow
  · rw [readRow_none a (.inr hHigh)] at hRow
    cases hRow
  · rw [readOnOff_none b hHigh] at hFlag
    cases hFlag

end refLockout

/-- Settles O40: each handler's branches on the leased state, whose reference is that of `s`; the refusals without a
session and without the right are gating's. -/
theorem refTableAndRefLockoutEditOneRow : Obligations.RefTableAndRefLockoutEditOneRow := by
  refine ⟨fun s p tag r source limit hReady hRight => ⟨fun q hSlot hNamed => ?named, fun hFree => ?unnamed,
    fun a b c hBad => exec_of_handle_right (c := .refTable) hReady hRight rfl (refTableHandler_refused hBad)⟩,
    fun s p tag r v hReady hRight => ⟨fun hSame => ?same, fun q hNew hOn hSlot hNamed => ?locked,
    fun hNew hFree => ?relocked,
    fun a b hBad => exec_of_handle_right (c := .refLockout) hReady hRight rfl (refLockoutHandler_refused hBad)⟩,
    fun s p tag ps hReady => ⟨fun hClosed => ⟨command_noSession .refTable p tag ps s hReady rfl hClosed,
      command_noSession .refLockout p tag ps s hReady rfl hClosed⟩,
    fun hOpen hLow => ⟨command_denied .refTable p tag ps s hReady rfl hOpen hLow,
      command_denied .refLockout p tag ps s hReady rfl hOpen hLow⟩⟩⟩
  case named =>
    have hHandle := refTableHandler_named source limit ((congrArg Selector.request (leased_selector p s)).trans hSlot)
      hNamed
    rw [leased_selector, leased_raised, editedRow_leased, dropEvent_leased] at hHandle
    exact exec_of_handle_right (c := .refTable) hReady hRight rfl hHandle
  case unnamed =>
    have hHandle := refTableHandler_unnamed (s := leased p s) source limit ((leased_selector p s).symm ▸ hFree)
    rw [leased_selector, editedRow_leased] at hHandle
    exact exec_of_handle_right (c := .refTable) hReady hRight rfl hHandle
  case same =>
    exact exec_of_handle_right (c := .refLockout) hReady hRight rfl
      (refLockoutHandler_same ((leased_selector p s).symm ▸ hSame))
  case locked =>
    have hHandle := refLockoutHandler_named (s := leased p s) ((leased_selector p s).symm ▸ hNew) hOn
      ((leased_selector p s).symm ▸ hSlot) hNamed
    rw [leased_selector, leased_raised, dropEvent_leased] at hHandle
    exact exec_of_handle_right (c := .refLockout) hReady hRight rfl hHandle
  case relocked =>
    have hHandle := refLockoutHandler_unnamed (s := leased p s) ((leased_selector p s).symm ▸ hNew)
      ((leased_selector p s).symm ▸ hFree)
    rw [leased_selector] at hHandle
    exact exec_of_handle_right (c := .refLockout) hReady hRight rfl hHandle

/-! ### REF_MODE (R44, R50) -/

section refMode

variable {rev : Option Bool} {wait limit : Option (BitVec 16)} {grade : Option Byte}

theorem modeParams_lengthOk : Cmd.refMode.lengthOk (modeParams rev wait limit grade).length = true := by
  rcases rev with _ | _ <;> rcases wait with _ | _ <;> rcases limit with _ | _ <;> rcases grade with _ | _ <;> rfl

/-- No field, or a field out of its range, is refused. -/
theorem readMode_modeParams_none
    (h : ¬ (rev.isSome ∨ wait.isSome ∨ limit.isSome ∨ grade.isSome)
      ∨ ¬ ((∀ w, wait = some w → w.toNat ≤ 300) ∧ (∀ w, limit = some w → w.toNat ≤ 3600)
        ∧ ∀ g, grade = some g → g.toNat ≤ 6)) :
    readMode (modeParams rev wait limit grade) = none := by
  rcases wait with _ | w <;> rcases limit with _ | l <;> rcases grade with _ | g <;> rcases rev with _ | _ | _ <;>
    simp at h <;>
    simp [readMode, modeParams, readOptional, readOptional16, numByte, flagByte, readOnOff, bytes16, readUpTo] <;>
    grind

theorem refModeHandler_refused {ps : List Byte} (h : readMode ps = none) (s : State) :
    refModeHandler ps s = (s, badArg) := by
  simp only [refModeHandler, h]

/-- The present fields take effect together, the holdover limit acts where it changed, and a change of revertive leads
to a recomputation. -/
theorem refModeHandler_set {s v : State} {ps : List Byte}
    (hRead : readMode ps = some ⟨rev, wait.map BitVec.toNat, limit.map BitVec.toNat,
      grade.map fun g => BitVec.ofNat 3 g.toNat⟩)
    (hLimit : (if (modeSet rev wait limit grade s.selector).holdoverLimit = s.selector.holdoverLimit
        then { s with selector := modeSet rev wait limit grade s.selector }
        else State.applyHoldoverLimit (modeSet rev wait limit grade s.selector).holdoverLimit
          { s with selector := modeSet rev wait limit grade s.selector }) = v) :
    refModeHandler ps s = (if v.selector.revertive = s.selector.revertive then v else v.recompute, ok []) := by
  subst hLimit
  simp only [refModeHandler, hRead]
  rfl

theorem enterFreeRun_eq (s : State) : s.enterFreeRun = { s with
    selector := { s.selector with state := .freeRun, lastRow := none, holdoverTimer := none, holdoverSince := none }
    raised := s.raised ++ [⟨.selector, s.everyone, .refState .freeRun none .holdoverExpired⟩] } := rfl

/-- A new limit acts on a holdover alone (R50). -/
theorem applyHoldoverLimit_outside {s : State} (h : s.selector.state ≠ .holdover) (limit : Nat) :
    s.applyHoldoverLimit limit = s := by
  rw [State.applyHoldoverLimit, if_neg h]

theorem applyHoldoverLimit_unlimited {s : State} {limit : Nat} (h : s.selector.state = .holdover) (hNone : limit = 0) :
    s.applyHoldoverLimit limit = { s with selector := { s.selector with holdoverTimer := none } } := by
  rw [State.applyHoldoverLimit, if_pos h, if_pos hNone]
  rfl

theorem applyHoldoverLimit_spent {s : State} {limit : Nat} {began : Time} (h : s.selector.state = .holdover)
    (hLimit : limit ≠ 0) (hSince : s.selector.holdoverSince = some began)
    (hSpent : began + limit * Config.second ≤ s.now) : s.applyHoldoverLimit limit = s.enterFreeRun := by
  rw [State.applyHoldoverLimit, if_pos h, if_neg hLimit, hSince]
  exact if_pos hSpent

theorem applyHoldoverLimit_running {s : State} {limit : Nat} {began : Time} (h : s.selector.state = .holdover)
    (hLimit : limit ≠ 0) (hSince : s.selector.holdoverSince = some began)
    (hLeft : s.now < began + limit * Config.second) : s.applyHoldoverLimit limit = { s with
      selector := { s.selector with holdoverTimer := some (began + limit * Config.second) } } := by
  rw [State.applyHoldoverLimit, if_pos h, if_neg hLimit, hSince]
  exact if_neg (Nat.not_le.mpr hLeft)

end refMode

/-- Settles O41: the fields read back; the limit's effect, one lemma a case; the recomputation by what is left of
revertive. -/
theorem refModeReplacesThePresentSettings : Obligations.RefModeReplacesThePresentSettings := by
  intro s p tag rev wait limit grade hReady hRight call some' inRange l u after untouched
  have hTaken : ∀ v : State, v.selector.revertive = l.revertive → some' → inRange →
      (if l.holdoverLimit = s.selector.holdoverLimit then u else u.applyHoldoverLimit l.holdoverLimit) = v →
      call = .next (answering p tag ⟨.ok, []⟩ (after v)) := by
    intro v hRevertive hSome hRange hLimit
    obtain ⟨hWait, hHoldover, hGrade⟩ := hRange
    have hRead := readMode_modeParams rev wait limit grade hSome hWait hHoldover hGrade
    have hHandle := refModeHandler_set (s := leased p s) (v := v) hRead (by rw [leased_selector]; exact hLimit)
    rw [leased_selector, hRevertive] at hHandle
    exact exec_of_handle_right (c := .refMode) hReady hRight modeParams_lengthOk hHandle
  have hMoved : ¬ untouched → u.selector.state = .holdover ∧ l.holdoverLimit ≠ s.selector.holdoverLimit := by
    intro h
    obtain ⟨hState, hChanged⟩ := not_or.mp h
    exact ⟨not_not.mp hState, hChanged⟩
  refine ⟨fun hSome hRange hUntouched => ?kept, fun hSome hRange hTouched hNone => ?unlimited,
    fun began hSome hRange hTouched hLimit hSince => ⟨fun hSpent => ?spent, fun hLeft => ?running⟩, fun hBad => ?refused⟩
  case kept =>
    refine hTaken u rfl hSome hRange ?_
    obtain hOutside | hSame := hUntouched
    · rw [applyHoldoverLimit_outside (s := u) hOutside, ite_self]
    · rw [if_pos hSame]
  case unlimited =>
    obtain ⟨hState, hChanged⟩ := hMoved hTouched
    refine hTaken _ rfl hSome hRange ?_
    rw [if_neg hChanged, applyHoldoverLimit_unlimited hState hNone]
  case spent =>
    obtain ⟨hState, hChanged⟩ := hMoved hTouched
    refine hTaken _ rfl hSome hRange ?_
    have hRaised : u.raised = s.raised := leased_raised p s
    have hEveryone : u.everyone = s.everyone := leased_everyone p s
    rw [if_neg hChanged, applyHoldoverLimit_spent hState hLimit hSince (by rw [leased_now]; exact hSpent),
      enterFreeRun_eq, hRaised, hEveryone]
  case running =>
    obtain ⟨hState, hChanged⟩ := hMoved hTouched
    refine hTaken _ rfl hSome hRange ?_
    rw [if_neg hChanged, applyHoldoverLimit_running hState hLimit hSince (by rw [leased_now]; exact hLeft)]
  case refused =>
    exact exec_of_handle_right (c := .refMode) hReady hRight modeParams_lengthOk
      (refModeHandler_refused (readMode_modeParams_none hBad) _)

end Sys2Proof.Machine
end

section
/-! REF_FORCE, REF_MANUAL and REF_CLEAR (R54 to R58): their checks in order, and what takes the slot or leaves it. -/

namespace Sys2Proof.Machine

/-! ### The slot on the leased state -/

theorem requestData_leased (p : Port) (s : State) : requestData (leased p s) = requestData s := by
  rw [← requestBytes_standing, ← requestBytes_standing, standing_leased]

theorem slotData_leased (p : Port) (s : State) : slotData (leased p s) = slotData s := by
  simp only [slotData, requestData_leased, leased_selector]

/-- A request that stands is the slot's, and one of an open session. -/
theorem not_standing_of_all_ended {s : State} (h : ∀ q, s.selector.request = some q → ¬ stands s q) :
    s.standing = none := by
  rcases hStanding : s.standing with _ | q
  · rfl
  · obtain ⟨hSlot, hStands⟩ := (standing_eq_some s q).mp hStanding
    exact absurd hStands (h q hSlot)

/-- A request placed by a command taken, with its response (R55, R56). -/
theorem placeRequest_leased_eq (p : Port) (k : RequestKind) (r : RowIx) (s : State) {t : State}
    (h : t = State.recompute { leased p s with
      selector := { s.selector with request := some ⟨k, r, p, (s.sessions.get p).number⟩ }
      raised := s.raised ++ replacedBy p s }) :
    placeRequest k r p (leased p s) = (t, ⟨.ok, slotData t⟩) := by
  rw [h, ← placeRequest_leased]
  exact Prod.ext rfl (slotReply_eq_slotData _)

/-! ### REF_FORCE and REF_MANUAL: the checks (R55, R56) -/

/-- The owner of request `q` is a port other than `p`, and of higher precedence. -/
abbrev OutranksPort (s : State) (p : Port) (q : Request) : Prop := q.owner ≠ p ∧ s.precedence p < s.precedence q.owner

section checks

variable {s : State} {p : Port} {r : RowIx}

theorem refForceHandler_badRow {b : Byte} (h : b = 0 ∨ 8 < b.toNat) : refForceHandler p [b] s = (s, badArg) := by
  simp only [refForceHandler, readRow_none b h]

theorem refManualHandler_badRow {b : Byte} (h : b = 0 ∨ 8 < b.toNat) : refManualHandler p [b] s = (s, badArg) := by
  simp only [refManualHandler, readRow_none b h]

theorem refForceHandler_empty (h : (s.row r).source = .empty) : refForceHandler p [rowNumByte r] s = (s, badArg) := by
  simp only [refForceHandler, readRow_rowNumByte, h, if_true]

theorem refManualHandler_empty (h : (s.row r).source = .empty) :
    refManualHandler p [rowNumByte r] s = (s, badArg) := by
  simp only [refManualHandler, readRow_rowNumByte, h, if_true]

variable (hSource : (s.row r).source ≠ .empty)
include hSource

theorem refForceHandler_lockedOut (h : (s.row r).lockout = true) :
    refForceHandler p [rowNumByte r] s = (s, refuse .lockedOut) := by
  simp only [refForceHandler, readRow_rowNumByte, if_neg hSource, h, if_true]

theorem refForceHandler_heldBy {q : Request} (hFree : (s.row r).lockout = false) (hStanding : s.standing = some q)
    (hForce : q.kind = .force) (hHigher : OutranksPort s p q) :
    refForceHandler p [rowNumByte r] s = (s, heldByPort q.owner) := by
  simp only [refForceHandler, readRow_rowNumByte, if_neg hSource, hFree, hStanding, Bool.false_eq_true, if_false,
    if_pos (And.intro hForce hHigher)]

theorem refForceHandler_placed (hFree : (s.row r).lockout = false)
    (hWeak : ∀ q, s.standing = some q → ¬ (q.kind = .force ∧ OutranksPort s p q)) :
    refForceHandler p [rowNumByte r] s = placeRequest .force r p s := by
  rcases hStanding : s.standing with _ | q
  · simp only [refForceHandler, readRow_rowNumByte, if_neg hSource, hFree, hStanding, Bool.false_eq_true, if_false]
  · simp only [refForceHandler, readRow_rowNumByte, if_neg hSource, hFree, hStanding, Bool.false_eq_true, if_false,
      if_neg (hWeak q hStanding)]

theorem refManualHandler_notQualified (h : (s.row r).qualification ≠ .qualified) :
    refManualHandler p [rowNumByte r] s = (s, refuse .notQualified) := by
  simp only [refManualHandler, readRow_rowNumByte, if_neg hSource, if_pos h]

variable (hQualified : (s.row r).qualification = .qualified)
include hQualified

theorem refManualHandler_lockedOut (h : (s.row r).lockout = true) :
    refManualHandler p [rowNumByte r] s = (s, refuse .lockedOut) := by
  simp only [refManualHandler, readRow_rowNumByte, if_neg hSource, if_neg (not_not_intro hQualified), h, if_true]

theorem refManualHandler_heldBy {q : Request} (hFree : (s.row r).lockout = false) (hStanding : s.standing = some q)
    (hStrong : q.kind = .force ∨ OutranksPort s p q) :
    refManualHandler p [rowNumByte r] s = (s, heldByPort q.owner) := by
  by_cases hForce : q.kind = .force
  · simp only [refManualHandler, readRow_rowNumByte, if_neg hSource, if_neg (not_not_intro hQualified), hFree,
      hStanding, Bool.false_eq_true, if_false, if_pos hForce]
  · simp only [refManualHandler, readRow_rowNumByte, if_neg hSource, if_neg (not_not_intro hQualified), hFree,
      hStanding, Bool.false_eq_true, if_false, if_neg hForce, if_pos (hStrong.resolve_left hForce)]

theorem refManualHandler_placed (hFree : (s.row r).lockout = false)
    (hWeak : ∀ q, s.standing = some q → ¬ (q.kind = .force ∨ OutranksPort s p q)) :
    refManualHandler p [rowNumByte r] s = placeRequest .manual r p s := by
  rcases hStanding : s.standing with _ | q
  · simp only [refManualHandler, readRow_rowNumByte, if_neg hSource, if_neg (not_not_intro hQualified), hFree,
      hStanding, Bool.false_eq_true, if_false]
  · obtain ⟨hManual, hLower⟩ := not_or.mp (hWeak q hStanding)
    simp only [refManualHandler, readRow_rowNumByte, if_neg hSource, if_neg (not_not_intro hQualified), hFree,
      hStanding, Bool.false_eq_true, if_false, if_neg hManual, if_neg hLower]

end checks

/-! ### REF_CLEAR (R57) -/

section clear

variable {s : State} {p : Port} {q : Request}

theorem refClearHandler_none (h : s.standing = none) : refClearHandler p s = (s, ⟨.ok, slotData s⟩) := by
  simp only [refClearHandler, h, slotReply_eq_slotData]

/-- The port's own request leaves the slot without an event. -/
theorem refClearHandler_own {t : State} (h : s.standing = some q) (hOwn : q.owner = p)
    (ht : t = State.recompute { s with selector := { s.selector with request := none } }) :
    refClearHandler p s = (t, ⟨.ok, slotData t⟩) := by
  simp only [refClearHandler, h, if_pos hOwn, slotReply_eq_slotData, ht]
  rfl

/-- A request of a port of no higher precedence leaves the slot with CLEARED. -/
theorem refClearHandler_other {t : State} (h : s.standing = some q) (hOther : q.owner ≠ p)
    (hPrecedence : s.precedence q.owner ≤ s.precedence p)
    (ht : t = State.recompute { s with
      selector := { s.selector with request := none }
      raised := s.raised ++ [⟨.selector, s.everyone, .refRequestDropped q.kind q.row q.owner .cleared⟩] }) :
    refClearHandler p s = (t, ⟨.ok, slotData t⟩) := by
  have hSlot := ((standing_eq_some s q).mp h).1
  simp only [refClearHandler, h, if_neg hOther, if_pos hPrecedence, slotReply_eq_slotData,
    dropRequest_of_some s q .cleared hSlot, ht]

theorem refClearHandler_heldBy (h : s.standing = some q) (hHigher : OutranksPort s p q) :
    refClearHandler p s = (s, heldByPort q.owner) := by
  obtain ⟨hOther, hPrecedence⟩ := hHigher
  simp only [refClearHandler, h, if_neg hOther, if_neg (not_le.mpr hPrecedence)]

end clear

/-! ### The three commands -/

/-- The row and the precedences that the checks read are those of `s`. -/
theorem outranksPort_leased (p : Port) (s : State) (q : Request) :
    OutranksPort (leased p s) p q
      ↔ q.owner ≠ p ∧ (s.sessions.get p).precedence < (s.sessions.get q.owner).precedence := by
  simp only [OutranksPort, State.precedence, leased_precedence]

theorem row_leased (p : Port) (s : State) (r : RowIx) : (leased p s).row r = s.selector.table.get r := by
  rw [State.row, leased_selector]

/-- Settles O42: one lemma a check of each handler, on the leased state, whose rows, slot and precedences are those of
`s`. -/
theorem refForceManualAndClearSetTheSlot : Obligations.RefForceManualAndClearSetTheSlot := by
  refine ⟨?requests, ?clear, fun s p tag ps hReady hClosed => ⟨command_noSession .refForce p tag ps s hReady rfl hClosed,
    command_noSession .refManual p tag ps s hReady rfl hClosed,
    command_noSession .refClear p tag ps s hReady rfl hClosed⟩⟩
  case requests =>
    intro s p tag r w hReady hOpen hRow placed higher force manual refusal
    rw [← row_leased p s r] at hRow
    subst hRow
    have hForce {ps : List Byte} {t : State} {reply : Reply} (hLength : (ps.length == 1) = true)
        (h : refForceHandler p ps (leased p s) = (t, reply)) :
        exec (.refForce p tag ps) s = .next (answering p tag reply t) :=
      exec_of_handle_session (c := .refForce) hReady hOpen rfl hLength h
    have hManual {ps : List Byte} {t : State} {reply : Reply} (hLength : (ps.length == 1) = true)
        (h : refManualHandler p ps (leased p s) = (t, reply)) :
        exec (.refManual p tag ps) s = .next (answering p tag reply t) :=
      exec_of_handle_session (c := .refManual) hReady hOpen rfl hLength h
    have hStanding (q : Request) (hSlot : s.selector.request = some q) (hStands : stands s q) :
        (leased p s).standing = some q := (standing_leased p s).trans (standing_of_stands hSlot hStands)
    have hWeak {c : Request → Prop} (h : ∀ q, s.selector.request = some q → stands s q → c q) :
        ∀ q, (leased p s).standing = some q → c q := by
      intro q hq
      obtain ⟨hSlot, hStands⟩ := (standing_eq_some s q).mp ((standing_leased p s).symm.trans hq)
      exact h q hSlot hStands
    have hHigher := outranksPort_leased p s
    refine ⟨fun hEmpty => ⟨hForce rfl (refForceHandler_empty hEmpty), hManual rfl (refManualHandler_empty hEmpty)⟩,
      fun hSource hLocked => hForce rfl (refForceHandler_lockedOut hSource hLocked),
      fun q hSource hFree hSlot hStands hKind hAbove => hForce rfl (refForceHandler_heldBy hSource hFree
        (hStanding q hSlot hStands) hKind ((hHigher q).mpr hAbove)),
      fun hSource hFree hNone => ?forced,
      fun hSource hNot => hManual rfl (refManualHandler_notQualified hSource hNot),
      fun hSource hQualified hLocked => hManual rfl (refManualHandler_lockedOut hSource hQualified hLocked),
      fun q hSource hQualified hFree hSlot hStands hStrong => hManual rfl (refManualHandler_heldBy hSource hQualified
        hFree (hStanding q hSlot hStands) (hStrong.imp_right (hHigher q).mpr)),
      fun hSource hQualified hFree hNone => ?placed,
      fun b hBad => ⟨hForce rfl (refForceHandler_badRow hBad), hManual rfl (refManualHandler_badRow hBad)⟩⟩
    case forced =>
      have hHandle := refForceHandler_placed hSource hFree fun q hq hHeld =>
        hWeak hNone q hq (hHeld.imp_right (hHigher q).mp)
      exact hForce rfl (hHandle.trans (placeRequest_leased_eq p .force r s rfl))
    case placed =>
      have hHandle := refManualHandler_placed hSource hQualified hFree fun q hq hHeld =>
        hWeak hNone q hq (hHeld.imp_right (hHigher q).mp)
      exact hManual rfl (hHandle.trans (placeRequest_leased_eq p .manual r s rfl))
  case clear =>
    intro s p tag hReady hOpen call cleared
    have hClear {t : State} {reply : Reply} (h : refClearHandler p (leased p s) = (t, reply)) :
        call = .next (answering p tag reply t) := exec_of_handle_session (c := .refClear) hReady hOpen rfl rfl h
    refine ⟨fun hEnded => ?none, fun q hSlot hStands => ?standing⟩
    case none =>
      have hNone := (standing_leased p s).trans (not_standing_of_all_ended hEnded)
      rw [← slotData_leased]
      exact hClear (refClearHandler_none hNone)
    case standing =>
      have hStanding := (standing_leased p s).trans (standing_of_stands hSlot hStands)
      refine ⟨fun hOwn => hClear (refClearHandler_own hStanding hOwn ?own), fun hOther hLower => ?other, fun hOther hAbove =>
        hClear (refClearHandler_heldBy hStanding ((outranksPort_leased p s q).mpr ⟨hOther, hAbove⟩))⟩
      case own =>
        simp only [cleared, List.append_nil, leased_selector, ← leased_raised p s]
      case other =>
        have hPrecedence : (leased p s).precedence q.owner ≤ (leased p s).precedence p := by
          simpa only [State.precedence, leased_precedence] using hLower
        refine hClear (refClearHandler_other hStanding hOther hPrecedence ?_)
        simp only [cleared, leased_selector, leased_raised, leased_everyone]

end Sys2Proof.Machine
end

section
/-! STAGE, UNSTAGE, DISCARD and STAGING_READ (R103 to R110): the port's set, once a stale one has been emptied, and the
one record each command places, removes or reports. -/

namespace Sys2Proof.Machine

/-! ### A destination's record in a set -/

section records

variable {d : Dest} {rs pre post : List ChangeRecord} {old record : ChangeRecord}

theorem recordIndex_none (h : ∀ x ∈ rs, x.dest ≠ d) : recordIndex d rs = none :=
  List.findIdx?_eq_none_iff.mpr fun x hx => by simpa using h x hx

theorem map_replace_of_absent (h : ∀ x ∈ rs, x.dest ≠ d) :
    rs.map (fun x => if x.dest = d then record else x) = rs := by
  refine (List.map_congr_left fun x hx => ?_).trans (List.map_id rs)
  exact if_neg (h x hx)

/-- A record replaces the one of its destination in its place (R106). -/
theorem placeRecord_replaced (hOld : old.dest = record.dest) (hOthers : ∀ x ∈ pre ++ post, x.dest ≠ record.dest) :
    placeRecord record (pre ++ old :: post) = pre ++ record :: post := by
  have hPre : ∀ x ∈ pre, x.dest ≠ record.dest := fun x hx => hOthers x (List.mem_append_left _ hx)
  have hPost : ∀ x ∈ post, x.dest ≠ record.dest := fun x hx => hOthers x (List.mem_append_right _ hx)
  rw [placeRecord, if_pos (by rw [recordIndex_split _ pre post old hOld hOthers, Option.isSome_some]), List.map_append,
    List.map_cons, map_replace_of_absent hPre, map_replace_of_absent hPost, if_pos hOld]

theorem placeRecord_appended (h : ∀ x ∈ rs, x.dest ≠ record.dest) : placeRecord record rs = rs ++ [record] := by
  rw [placeRecord, if_neg (by rw [recordIndex_none h]; simp)]

/-- The records of the other destinations are all that is left (R107). -/
theorem filter_other_dests (hOld : old.dest = d) (hOthers : ∀ x ∈ pre ++ post, x.dest ≠ d) :
    (pre ++ old :: post).filter (fun r => r.dest != d) = pre ++ post := by
  have hKept : ∀ {l : List ChangeRecord}, (∀ x ∈ l, x.dest ≠ d) → l.filter (fun r => r.dest != d) = l :=
    fun h => List.filter_eq_self.mpr fun x hx => by simpa using h x hx
  have hPre := hKept fun x hx => hOthers x (List.mem_append_left post hx)
  have hPost := hKept fun x hx => hOthers x (List.mem_append_right pre hx)
  rw [List.filter_append, List.filter_cons_of_neg (by simp [hOld]), hPre, hPost]

end records

/-! ### The port's set on the leased state -/

theorem withStaging_withStaging (p : Port) (t u : Staging) (s : State) :
    withStaging p u (withStaging p t s) = withStaging p u s := by
  simp only [withStaging, Tab.put_put]

theorem onStaging_withStaging (p : Port) (t : Staging) (f : Staging → Staging) (s : State) :
    (withStaging p t s).onStaging p f = withStaging p (f t) s := by
  rw [← withStaging_withStaging p t (f t) s, State.onStaging, Tab.modify, withStaging_self]
  rfl

theorem owns_withStaging_leased (p : Port) (t : Staging) (s : State) (d : Dest) :
    (withStaging p t (leased p s)).owns p (s.sessions.get p).number d = true
      ↔ s.claims.get d = some ⟨p, (s.sessions.get p).number⟩ := by
  rw [owns_iff, withStaging_claims, leased_claims]

theorem stagingMax_eq : Config.stagingMax = 32 := rfl

/-! ### STAGE (R105, R106) -/

section stage

variable {s : State} {p : Port} {ps : List Byte} {r : ChangeRecord}

theorem stageHandler_malformed (h : readRecord ps = none) :
    stageHandler p ps (leased p s) = (withStaging p (freshSet s p) (leased p s), badArg) := by
  simp only [stageHandler, freshStaging_leased, h]

variable (hRead : readRecord ps = some r)
include hRead

theorem stageHandler_notOwner (h : ¬ s.claims.get r.dest = some ⟨p, (s.sessions.get p).number⟩) :
    stageHandler p ps (leased p s)
      = (withStaging p (freshSet s p) (leased p s), ⟨.notOwner, [numByte r.dest]⟩) := by
  have hNot : (withStaging p (freshSet s p) (leased p s)).owns p (s.sessions.get p).number r.dest = false := by
    rw [← Bool.not_eq_true, owns_withStaging_leased]
    exact h
  simp only [stageHandler, freshStaging_leased, hRead, withStaging_leased_sessionNo, hNot, Bool.not_false, if_true]
  rfl

variable (hOwned : s.claims.get r.dest = some ⟨p, (s.sessions.get p).number⟩)
include hOwned

theorem stageHandler_full (hNew : ∀ x ∈ (freshSet s p).records, x.dest ≠ r.dest)
    (hFull : 32 ≤ (freshSet s p).records.length) :
    stageHandler p ps (leased p s) = (withStaging p (freshSet s p) (leased p s), refuse .full) := by
  have hOwns := (owns_withStaging_leased p (freshSet s p) s r.dest).mpr hOwned
  simp only [stageHandler, freshStaging_leased, hRead, withStaging_leased_sessionNo, hOwns, withStaging_self,
    recordIndex_none hNew, Bool.not_true, Bool.false_eq_true, if_false, Option.isNone_none, true_and, stagingMax_eq,
    if_pos hFull]

/-- A record accepted: the set with it in its place, and the position, count and which of the response. -/
theorem stageHandler_placed
    (hRoom : ¬ ((recordIndex r.dest (freshSet s p).records).isNone = true ∧ 32 ≤ (freshSet s p).records.length)) :
    stageHandler p ps (leased p s) = (withStaging p ⟨placeRecord r (freshSet s p).records,
        if (freshSet s p).records = [] then some (s.sessions.get p).number else (freshSet s p).session⟩ (leased p s),
      ok (small (recordPosition r.dest (freshSet s p).records)
        ++ small (placeRecord r (freshSet s p).records).length
        ++ small (if (recordIndex r.dest (freshSet s p).records).isSome then 1 else 0))) := by
  have hOwns := (owns_withStaging_leased p (freshSet s p) s r.dest).mpr hOwned
  simp only [stageHandler, freshStaging_leased, hRead, withStaging_leased_sessionNo, hOwns, withStaging_self,
    Bool.not_true, Bool.false_eq_true, if_false, stagingMax_eq, if_neg hRoom, onStaging_withStaging]

end stage

theorem stageParams_length (d : Dest) (source : Option (Source × BitVec 16)) (mute invert : Option Bool) :
    Cmd.stage.lengthOk (stageParams d source mute invert).length = true := by
  rcases source with _ | ⟨x, f⟩
  · rcases mute with _ | _ <;> rcases invert with _ | _ <;> rfl
  · obtain ⟨a, b, hBytes, -⟩ := readSource_sourceBytes x
    rcases mute with _ | _ <;> rcases invert with _ | _ <;> simp [stageParams, hBytes, bytes16, Cmd.lengthOk]

/-- Settles O46: bytes that spell no record are refused; a record spelt is read back, and the handler's branches place
it. -/
theorem stagePlacesOneRecord : Obligations.StagePlacesOneRecord := by
  refine ⟨fun s p tag ps hReady hOpen hLow hHigh hNoRecord => ?malformed,
    fun s p tag d source mute invert hReady hOpen hSome hFade => ?record⟩
  case malformed =>
    have hRead : readRecord ps = none := by
      rcases hRead : readRecord ps with _ | r
      · rfl
      · obtain ⟨source, mute, invert, hSome, hFade, hSpelt⟩ := readRecord_some hRead
        exact absurd hSpelt (hNoRecord r.dest source mute invert hSome hFade)
    have hLength : Cmd.stage.lengthOk ps.length = true := by simp [Cmd.lengthOk, hLow, hHigh]
    exact exec_of_handle_session (c := .stage) hReady hOpen rfl hLength (stageHandler_malformed hRead)
  case record =>
    intro call set record owned
    have hRead : readRecord (stageParams d source mute invert) = some record :=
      readRecord_stageParams d source mute invert hSome hFade
    have hLength := stageParams_length d source mute invert
    have hTaken {t : State} {reply : Reply}
        (h : stageHandler p (stageParams d source mute invert) (leased p s) = (t, reply)) :
        call = .next (answering p tag reply t) :=
      exec_of_handle_session (c := .stage) hReady hOpen rfl hLength h
    refine ⟨fun hNot => hTaken (stageHandler_notOwner hRead hNot),
      fun pre old post hOwned hSplit hOld hOthers => ?replaced, fun hOwned hNew hRoom => ?appended,
      fun hOwned hNew hFull => hTaken (stageHandler_full hRead hOwned hNew hFull)⟩
    case replaced =>
      have hIndex : recordIndex record.dest (freshSet s p).records = some pre.length :=
        hSplit ▸ recordIndex_split d pre post old hOld hOthers
      have hPlaced : placeRecord record (freshSet s p).records = pre ++ record :: post :=
        hSplit ▸ placeRecord_replaced hOld hOthers
      have hNonempty : (freshSet s p).records ≠ [] := by rw [show (freshSet s p).records = _ from hSplit]; simp
      have hLengths : (pre ++ record :: post).length = set.records.length := by rw [hSplit]; simp
      have hHandle := stageHandler_placed hRead hOwned (by simp [hIndex])
      rw [hPlaced, if_neg hNonempty, recordPosition, hIndex, hLengths] at hHandle
      exact hTaken hHandle
    case appended =>
      have hIndex : recordIndex record.dest (freshSet s p).records = none := recordIndex_none hNew
      have hHandle := stageHandler_placed hRead hOwned (by rw [not_and]; intro _; exact Nat.not_le.mpr hRoom)
      rw [placeRecord_appended hNew, recordPosition, hIndex, List.length_append] at hHandle
      exact hTaken hHandle

/-! ### UNSTAGE, DISCARD and STAGING_READ (R107, R108, R110) -/

section reduced

variable {s : State} {p : Port} {d : Dest}

theorem unstageHandler_found {pre post : List ChangeRecord} {old : ChangeRecord}
    (hSplit : (freshSet s p).records = pre ++ old :: post) (hOld : old.dest = d)
    (hOthers : ∀ x ∈ pre ++ post, x.dest ≠ d) :
    unstageHandler p [numByte d] (leased p s)
      = (withStaging p ((freshSet s p).keep (pre ++ post)) (leased p s), ok (small (pre ++ post).length)) := by
  have hFound : ¬ (recordIndex d (pre ++ old :: post)).isNone = true := by
    rw [recordIndex_split d pre post old hOld hOthers]
    simp
  simp only [unstageHandler, freshStaging_leased, withStaging_self, readDest_numByte, hSplit, if_neg hFound,
    filter_other_dests hOld hOthers, onStaging_withStaging]

theorem unstageHandler_notFound (h : ∀ x ∈ (freshSet s p).records, x.dest ≠ d) :
    unstageHandler p [numByte d] (leased p s)
      = (withStaging p (freshSet s p) (leased p s), refuse .notFound) := by
  simp only [unstageHandler, freshStaging_leased, withStaging_self, readDest_numByte, recordIndex_none h,
    Option.isNone_none, if_true]

theorem discardHandler_leased (p : Port) (s : State) : discardHandler p (leased p s)
    = (withStaging p ⟨[], none⟩ (leased p s), ok (small (freshSet s p).records.length)) := by
  simp only [discardHandler, freshStaging_leased, withStaging_self, onStaging_withStaging]
  rfl

theorem stagingReadHandler_range (s : State) (p : Port) {start : Byte} (hLow : 1 ≤ start.toNat)
    (hHigh : start.toNat ≤ 32) : stagingReadHandler p [start] (leased p s)
      = (withStaging p (freshSet s p) (leased p s), ok (small (freshSet s p).records.length
        ++ [(freshSet s p).session.getD 0]
        ++ (((freshSet s p).records.drop (start.toNat - 1)).take 8).flatMap ChangeRecord.bytes)) := by
  have hRange : ¬ (start.toNat < 1 ∨ 32 < start.toNat) := by omega
  simp only [stagingReadHandler, freshStaging_leased, withStaging_self, if_neg hRange]
  rfl

theorem stagingReadHandler_refused (s : State) (p : Port) {start : Byte} (h : start = 0 ∨ 32 < start.toNat) :
    stagingReadHandler p [start] s = (s, badArg) := by
  have hRange : start.toNat < 1 ∨ 32 < start.toNat := h.imp_left fun hZero => by rw [hZero]; decide
  simp only [stagingReadHandler, if_pos hRange]

end reduced

/-- Settles O47: the four handlers on the leased state, each on the set a stale one leaves. -/
theorem stagingSetIsReducedAndRead : Obligations.StagingSetIsReducedAndRead := by
  refine ⟨fun s p tag d hReady hOpen => ?taken, fun s p tag ps hReady hClosed =>
    ⟨command_noSession .unstage p tag ps s hReady rfl hClosed, command_noSession .discard p tag ps s hReady rfl hClosed,
      command_noSession .stagingRead p tag ps s hReady rfl hClosed⟩⟩
  case taken =>
    intro set
    refine ⟨fun pre old post hSplit hOld hOthers => ?found, fun hNew => ?notFound, ?discard, fun ps hParams => ?params,
      fun start hLow hHigh => ?read, fun start hBad => ?refused⟩
    case found => exact exec_of_handle_session (c := .unstage) hReady hOpen rfl rfl (unstageHandler_found hSplit hOld hOthers)
    case notFound => exact exec_of_handle_session (c := .unstage) hReady hOpen rfl rfl (unstageHandler_notFound hNew)
    case discard => exact exec_of_handle_session (c := .discard) hReady hOpen rfl rfl (discardHandler_leased p s)
    case params =>
      have hLength : Cmd.discard.lengthOk ps.length = false := by simpa [Cmd.lengthOk] using hParams
      exact command_badLength .discard p tag ps s hReady (fun _ => hOpen) (by simp [Cmd.needsRight]) hLength
    case read =>
      exact exec_of_handle_session (c := .stagingRead) hReady hOpen rfl rfl (stagingReadHandler_range s p hLow hHigh)
    case refused =>
      exact exec_of_handle_session (c := .stagingRead) hReady hOpen rfl rfl (stagingReadHandler_refused _ p hBad)

end Sys2Proof.Machine
end

section
/-! SUBSCRIBE, UNSUBSCRIBE, FETCH and SEND (R137, R138, R142, R145, R146): the port's entry for a link, its mailbox, and
the message it sends. -/

namespace Sys2Proof.Machine

/-! ### The port's entry for a link (R136 to R138) -/

section entry

variable {s : State} {p : Port} {n : Link}

theorem currentEntry_some {e : Subscription} (hOpen : HasSession p s) (hEntry : (s.subscriptions.get n).get p = some e)
    (hSession : e.session = (s.sessions.get p).number) : currentEntry (leased p s) p n = some e := by
  have hWith : (leased p s).openWith p e.session = true := by
    rw [openWith_iff, leased_isOpen, leased_number]
    exact ⟨hOpen, hSession.symm⟩
  simp only [currentEntry, leased_subscriptions, hEntry, hWith, if_true]

/-- An entry of another session is stale: the port has no current one. -/
theorem currentEntry_none (h : ∀ e, (s.subscriptions.get n).get p = some e → e.session ≠ (s.sessions.get p).number) :
    currentEntry (leased p s) p n = none := by
  rcases hEntry : (s.subscriptions.get n).get p with _ | e
  · simp only [currentEntry, leased_subscriptions, hEntry]
  · have hWith : ¬ (leased p s).openWith p e.session = true := by
      rw [openWith_iff, leased_number]
      exact fun hCurrent => h e hEntry hCurrent.2.symm
    simp only [currentEntry, leased_subscriptions, hEntry, if_neg hWith]

theorem setEntry_leased (e : Option Subscription) : (leased p s).setEntry p n e
    = { leased p s with subscriptions := s.subscriptions.put n ((s.subscriptions.get n).put p e) } := by
  rw [State.setEntry, leased_subscriptions, Tab.modify]

variable {low high : Byte}

theorem subscribeHandler_current {e : Subscription} (hRange : low ≤ high) (h : currentEntry s p n = some e) :
    subscribeHandler p [numByte n, low, high] s
      = (s.setEntry p n (some ⟨low, high, s.sessionNo p⟩), ok [0x01, e.low, e.high]) := by
  simp only [subscribeHandler, readLink_numByte, if_neg (BitVec.not_lt.mpr hRange), h]
  rfl

theorem subscribeHandler_new (hRange : low ≤ high) (h : currentEntry s p n = none) :
    subscribeHandler p [numByte n, low, high] s
      = (s.setEntry p n (some ⟨low, high, s.sessionNo p⟩), ok [0x00]) := by
  simp only [subscribeHandler, readLink_numByte, if_neg (BitVec.not_lt.mpr hRange), h]
  rfl

theorem subscribeHandler_reversed (h : high < low) : subscribeHandler p [numByte n, low, high] s = (s, badArg) := by
  simp only [subscribeHandler, readLink_numByte, if_pos h]

theorem subscribeHandler_badLink {b : Byte} (h : 16 ≤ b.toNat) : subscribeHandler p [b, low, high] s = (s, badArg) := by
  simp only [subscribeHandler, readLink_none b h]

theorem unsubscribeHandler_current {e : Subscription} (h : currentEntry s p n = some e) :
    unsubscribeHandler p [numByte n] s = (s.setEntry p n none, ok [e.low, e.high]) := by
  simp only [unsubscribeHandler, readLink_numByte, h]

theorem unsubscribeHandler_stale (h : currentEntry s p n = none) :
    unsubscribeHandler p [numByte n] s = (s.setEntry p n none, refuse .notFound) := by
  simp only [unsubscribeHandler, readLink_numByte, h]

theorem unsubscribeHandler_badLink {b : Byte} (h : 16 ≤ b.toNat) : unsubscribeHandler p [b] s = (s, badArg) := by
  simp only [unsubscribeHandler, readLink_none b h]

end entry

/-- Settles O50: the handlers by whether the port's entry is current, on the leased state. -/
theorem subscriptionsAreWrittenAndRemoved : Obligations.SubscriptionsAreWrittenAndRemoved := by
  refine ⟨fun s p tag n low high hReady hOpen => ?taken, fun s p tag ps hReady hClosed =>
    ⟨command_noSession .subscribe p tag ps s hReady rfl hClosed,
      command_noSession .unsubscribe p tag ps s hReady rfl hClosed⟩⟩
  case taken =>
    intro number old entry
    have hNumber : (leased p s).sessionNo p = number := leased_number ..
    have hEntry (e : Option Subscription) : (leased p s).setEntry p n e = entry e := setEntry_leased e
    refine ⟨fun hRange hStale => ?new, fun e hRange hOld hSession => ?replaced,
      fun hReversed => exec_of_handle_session (c := .subscribe) hReady hOpen rfl rfl (subscribeHandler_reversed hReversed),
      fun e hOld hSession => ?removed, fun hStale => ?stale,
      fun b hBad => ⟨exec_of_handle_session (c := .subscribe) hReady hOpen rfl rfl (subscribeHandler_badLink hBad),
        exec_of_handle_session (c := .unsubscribe) hReady hOpen rfl rfl (unsubscribeHandler_badLink hBad)⟩⟩
    case new =>
      have hHandle := subscribeHandler_new hRange (currentEntry_none hStale)
      rw [hNumber, hEntry] at hHandle
      exact exec_of_handle_session (c := .subscribe) hReady hOpen rfl rfl hHandle
    case replaced =>
      have hHandle := subscribeHandler_current hRange (currentEntry_some hOpen hOld hSession)
      rw [hNumber, hEntry] at hHandle
      exact exec_of_handle_session (c := .subscribe) hReady hOpen rfl rfl hHandle
    case removed =>
      have hHandle := unsubscribeHandler_current (currentEntry_some hOpen hOld hSession)
      rw [hEntry] at hHandle
      exact exec_of_handle_session (c := .unsubscribe) hReady hOpen rfl rfl hHandle
    case stale =>
      have hHandle := unsubscribeHandler_stale (currentEntry_none hStale)
      rw [hEntry] at hHandle
      exact exec_of_handle_session (c := .unsubscribe) hReady hOpen rfl rfl hHandle

/-! ### FETCH (R142) -/

section fetch

variable {s : State} {p : Port} {box : Mailbox}

theorem fresh_of_stale {number : SessionNo} (h : box.session ≠ none ∧ box.session ≠ some number) :
    box.fresh number = { box with records := [], session := none, overflowFlag := false } := by
  rw [Mailbox.fresh, if_pos h]
  rfl

theorem fresh_of_current {number : SessionNo} (h : ¬ (box.session ≠ none ∧ box.session ≠ some number)) :
    box.fresh number = box := by
  rw [Mailbox.fresh, if_neg h]

theorem onMailbox_const (p : Port) (m : Mailbox) (s : State) :
    (s.onMailbox p fun _ => m) = { s with mailboxes := s.mailboxes.put p m } := rfl

theorem fetchHandler_empty (hFresh : (s.mailboxes.get p).fresh (s.sessionNo p) = box) (hNone : box.records = []) :
    fetchHandler p s
      = ({ s with mailboxes := s.mailboxes.put p { box with overflowFlag := false } }, refuse .empty) := by
  simp only [fetchHandler, hFresh, hNone, onMailbox_const]

theorem fetchHandler_oldest {m : MessageRecord} {rest : List MessageRecord}
    (hFresh : (s.mailboxes.get p).fresh (s.sessionNo p) = box) (hSome : box.records = m :: rest) :
    fetchHandler p s
      = ({ s with mailboxes := s.mailboxes.put p (box.afterFetch rest) }, ok (m.bytes rest.length)) := by
  simp only [fetchHandler, hFresh, hSome, onMailbox_const]

theorem messageBytes_eq (m : MessageRecord) (k : Nat) : m.bytes k
    = [numByte m.link, m.type] ++ small m.payload.length ++ m.payload ++ bytes32 m.arrival ++ small k := rfl

end fetch

/-! ### SEND (R145, R146) -/

section send

variable {s : State} {p : Port} {n : Link} {type : Byte} {payload : List Byte}

theorem sendHandler_badLink {b : Byte} (h : 16 ≤ b.toNat) :
    sendHandler p ([b, type] ++ payload) s = (s, badArg) := by
  simp only [sendHandler, List.cons_append, List.nil_append, readLink_none b h]

theorem txEnabled_of_on (hOn : (s.transmitters.get n).state ≠ .off) : txEnabled s n = true := by
  simp [txEnabled, hOn]

variable (hShort : payload.length ≤ 32)
include hShort

theorem sendHandler_linkDown (h : (s.transmitters.get n).state = .off) :
    sendHandler p ([numByte n, type] ++ payload) s = (s, refuse .linkDown) := by
  have hDown : txEnabled s n = false := by rw [txEnabled, h]; rfl
  simp only [sendHandler, List.cons_append, List.nil_append, readLink_numByte, if_neg (Nat.not_lt.mpr hShort), hDown,
    Bool.not_false, if_true]

variable (hOn : (s.transmitters.get n).state ≠ .off)
include hOn

theorem sendHandler_full (h : 8 ≤ (s.txQueues.get n).length) :
    sendHandler p ([numByte n, type] ++ payload) s = (s, refuse .full) := by
  simp only [sendHandler, List.cons_append, List.nil_append, readLink_numByte, if_neg (Nat.not_lt.mpr hShort),
    txEnabled_of_on hOn, Bool.not_true, Bool.false_eq_true, if_false]
  exact if_pos h

theorem sendHandler_queued (h : (s.txQueues.get n).length < 8) :
    sendHandler p ([numByte n, type] ++ payload) s
      = ({ s with
            messageIds := s.messageIds.put p (s.messageIds.get p + 1)
            txQueues := s.txQueues.put n (s.txQueues.get n
              ++ [⟨p, s.sessionNo p, s.messageIds.get p + 1, type, payload, wireBytes type payload⟩]) },
          ok (bytes16 (s.messageIds.get p + 1) ++ small (s.txQueues.get n).length
            ++ [flagByte (s.transmitters.get n).sending.inFlight])) := by
  simp only [sendHandler, List.cons_append, List.nil_append, readLink_numByte, if_neg (Nat.not_lt.mpr hShort),
    txEnabled_of_on hOn, Bool.not_true, Bool.false_eq_true, if_false, onOff_eq_flagByte]
  exact if_neg (Nat.not_le.mpr h)

end send

theorem sendParams_length {a type : Byte} {payload : List Byte} (h : payload.length ≤ 32) :
    Cmd.send.lengthOk ([a, type] ++ payload).length = true := by
  simp only [Cmd.lengthOk, List.length_append, List.length_cons, List.length_nil, Bool.and_eq_true, decide_eq_true_eq]
  omega

/-- Settles O51: FETCH on the mailbox its freshness leaves, SEND by its checks, both on the leased state. -/
theorem fetchAndSendMoveMessages : Obligations.FetchAndSendMoveMessages := by
  refine ⟨?fetch, ?send, fun s p tag ps hReady hClosed => ⟨command_noSession .fetch p tag ps s hReady rfl hClosed,
    command_noSession .send p tag ps s hReady rfl hClosed⟩⟩
  case fetch =>
    rintro s p tag box hReady hOpen rfl stale call
    have hTaken {t : State} {reply : Reply} (h : fetchHandler p (leased p s) = (t, reply)) :
        call = .next (answering p tag reply t) := exec_of_handle_session (c := .fetch) hReady hOpen rfl rfl h
    have hFresh : ((leased p s).mailboxes.get p).fresh ((leased p s).sessionNo p)
        = (s.mailboxes.get p).fresh (s.sessions.get p).number := by
      rw [leased_mailboxes, State.sessionNo, leased_number]
    refine ⟨fun hStale => ?stale, fun hCurrent hNone => ?empty, fun ps hParams => ?params,
      fun m rest hCurrent hSome => ?oldest⟩
    case stale =>
      have hHandle := fetchHandler_empty (hFresh.trans (fresh_of_stale hStale)) rfl
      rw [leased_mailboxes] at hHandle
      exact hTaken hHandle
    case empty =>
      have hHandle := fetchHandler_empty (hFresh.trans (fresh_of_current hCurrent)) hNone
      rw [leased_mailboxes] at hHandle
      exact hTaken hHandle
    case params =>
      have hLength : Cmd.fetch.lengthOk ps.length = false := by simpa [Cmd.lengthOk] using hParams
      exact command_badLength .fetch p tag ps s hReady (fun _ => hOpen) (by simp [Cmd.needsRight]) hLength
    case oldest =>
      have hHandle := fetchHandler_oldest (hFresh.trans (fresh_of_current hCurrent)) hSome
      rw [leased_mailboxes, messageBytes_eq] at hHandle
      exact hTaken hHandle
  case send =>
    intro s p tag n type payload hReady hOpen hShort call id body q
    have hTaken {a : Byte} {t : State} {reply : Reply}
        (h : sendHandler p ([a, type] ++ payload) (leased p s) = (t, reply)) :
        exec (.send p tag ([a, type] ++ payload)) s = .next (answering p tag reply t) :=
      exec_of_handle_session (c := .send) hReady hOpen rfl (sendParams_length hShort) h
    have hOn (h : (s.transmitters.get n).state ≠ .off) : ((leased p s).transmitters.get n).state ≠ .off := by
      rwa [leased_transmitters]
    refine ⟨fun hOff => hTaken (sendHandler_linkDown hShort (by rwa [leased_transmitters])),
      fun hUp hFull => hTaken (sendHandler_full hShort (hOn hUp) (by rwa [leased_txQueues])),
      fun hUp hRoom => ?queued, fun b hBad => hTaken (sendHandler_badLink hBad)⟩
    case queued =>
      have hHandle := sendHandler_queued (p := p) (type := type) hShort (hOn hUp) (by rwa [leased_txQueues])
      have hFlight : ((leased p s).transmitters.get n).sending = (s.transmitters.get n).sending := by
        rw [leased_transmitters]
      rw [leased_messageIds, leased_txQueues, State.sessionNo, leased_number, hFlight] at hHandle
      refine (hTaken hHandle).trans ?_
      rcases (s.transmitters.get n).sending <;> rfl

end Sys2Proof.Machine
end
